-- ==== Sys2Proof/Word.lean ====
section
/-! DEFINITION. The two bit-vector widths of the machine (00_scope.md R4 `XLEN`, `ALEN`; R5). Their wrapping addition is the
`+8` and `+16` of R6. -/

namespace Sys2Proof

/-- A byte: a memory cell, `A`, `X`, `Y`, an opcode or an operand byte (R4 `XLEN`, R5). -/
abbrev Byte := BitVec 8

/-- A word: an address, `PC` or `SP` (R4 `ALEN`, R5). `a + b` on words is the spec's `a +16 b` (R6). -/
abbrev Word := BitVec 16

end Sys2Proof
end

