-- ==== Sys2Proof/Machine/Bits.lean ====
section
/-! DEFINITION. The byte-order and extension helpers of 00_scope.md R5 and R7. -/

namespace Sys2Proof.Machine

/-- `hi:lo`, the word `256*hi + lo` (R5). -/
def wordOf (hi lo : Byte) : Word := hi ++ lo

/-- `v[7:0]`, the low byte of a word (R5). -/
def lowByte (v : Word) : Byte := v.extractLsb' 0 8

/-- `v[15:8]`, the high byte of a word (R5). -/
def highByte (v : Word) : Byte := v.extractLsb' 8 8

/-- `zext_16(b)`: the byte as a word with high byte 0 (R7). -/
def zext16 (b : Byte) : Word := wordOf 0 b

end Sys2Proof.Machine
end

