-- ==== Sys2Proof/Config.lean ====
section
/-! DEFINITION. What a given block fixes (00_scope.md R4, 10_state.md R19): the names of registers, addressing modes and
instruction forms, and the configuration parameters the source leaves open. The defaults are in Machine/Parameters.lean. -/

namespace Sys2Proof

/-- The three general registers (R11). -/
inductive Reg where
  | a
  | x
  | y
deriving DecidableEq, Repr

/-- The nine addressing modes (41_addressing_modes.md R103), and JSR's target operand, which R55 lists as its mode. -/
inductive Mode where
  | immediate
  | zeroPage
  | zeroPageX
  | zeroPageY
  | absolute
  | absoluteX
  | absoluteY
  | indirectX
  | indirectY
  | target
deriving DecidableEq, Repr

/-- The three instruction formats (30_encoding.md R50). -/
inductive Format where
  | imm
  | zp
  | abs
deriving DecidableEq, Repr

/-- The 25 instruction/addressing-mode combinations (30_encoding.md R55): the domain of `OPCODE_MAP`. -/
inductive Form where
  | ldaImm
  | ldaZp
  | ldaZpX
  | ldaAbs
  | ldaAbsX
  | ldaAbsY
  | ldaIndX
  | ldaIndY
  | ldxImm
  | ldxZp
  | ldxZpY
  | ldxAbs
  | ldxAbsY
  | ldyImm
  | ldyZp
  | ldyZpX
  | ldyAbs
  | ldyAbsX
  | staZp
  | staAbs
  | stxZp
  | stxAbs
  | styZp
  | styAbs
  | jsr
deriving DecidableEq, Repr

/-- Every form, in the order of R55. -/
def Form.all : List Form :=
  [.ldaImm, .ldaZp, .ldaZpX, .ldaAbs, .ldaAbsX, .ldaAbsY, .ldaIndX, .ldaIndY,
   .ldxImm, .ldxZp, .ldxZpY, .ldxAbs, .ldxAbsY,
   .ldyImm, .ldyZp, .ldyZpX, .ldyAbs, .ldyAbsX,
   .staZp, .staAbs, .stxZp, .stxAbs, .styZp, .styAbs, .jsr]

/-- The two values of `PAGE_CROSS_RULE` (R4, R90): R91 is the spec's choice, R92 the alternative. -/
inductive PageCrossRule where
  | highByteChanged
  | asImplemented
deriving DecidableEq, Repr

/-- The parameters of a block (R4). `CYCLE_WIDTH` is no field: the counter is a mathematical integer (92 D6). -/
structure Config where
  /-- `RESET_PC` (R23, 92 D4). -/
  resetPC : Word
  /-- `RESET_SP` (R23, 92 D5). -/
  resetSP : Word
  /-- `PAGE_CROSS_RULE` (R90, 92 D9). -/
  pageCrossRule : PageCrossRule
  /-- `OPCODE_MAP`, from the 25 forms to opcode bytes (R55, 92 D1). -/
  opcodeMap : Form → Byte
  /-- `LOAD_MODES`: which load register takes which mode (R54, 92 D3). What the source fixes of it, Immediate for all three and the
  mode list (R4, R53), is in `Config.implements` and `Config.wellFormed`. -/
  loadModes : Reg → Mode → Bool

end Sys2Proof
end

