-- ==== Sys2Proof/Machine/Parameters.lean ====
section
/-! DEFINITION. The defaults of the configuration parameters (00_scope.md R4), and what each form is (30_encoding.md R55). -/

namespace Sys2Proof

/-- The default `OPCODE_MAP`: the opcode bytes of R55 (PRESUMED: the standard MOS 6502 values, 93 K1; log entry 5). -/
def defaultOpcodeMap : Form → Byte
  | .ldaImm => 0xA9
  | .ldaZp => 0xA5
  | .ldaZpX => 0xB5
  | .ldaAbs => 0xAD
  | .ldaAbsX => 0xBD
  | .ldaAbsY => 0xB9
  | .ldaIndX => 0xA1
  | .ldaIndY => 0xB1
  | .ldxImm => 0xA2
  | .ldxZp => 0xA6
  | .ldxZpY => 0xB6
  | .ldxAbs => 0xAE
  | .ldxAbsY => 0xBE
  | .ldyImm => 0xA0
  | .ldyZp => 0xA4
  | .ldyZpX => 0xB4
  | .ldyAbs => 0xAC
  | .ldyAbsX => 0xBC
  | .staZp => 0x85
  | .staAbs => 0x8D
  | .stxZp => 0x86
  | .stxAbs => 0x8E
  | .styZp => 0x84
  | .styAbs => 0x8C
  | .jsr => 0x20

/-- The default `LOAD_MODES`: the matrix of R54 (PRESUMED: the standard 6502 matrix, 93 K3; log entry 6). -/
def defaultLoadModes : Reg → Mode → Bool
  | _, .immediate => true
  | _, .zeroPage => true
  | .a, .zeroPageX => true
  | .x, .zeroPageX => false
  | .y, .zeroPageX => true
  | .a, .zeroPageY => false
  | .x, .zeroPageY => true
  | .y, .zeroPageY => false
  | _, .absolute => true
  | .a, .absoluteX => true
  | .x, .absoluteX => false
  | .y, .absoluteX => true
  | .a, .absoluteY => true
  | .x, .absoluteY => true
  | .y, .absoluteY => false
  | .a, .indirectX => true
  | .x, .indirectX => false
  | .y, .indirectX => false
  | .a, .indirectY => true
  | .x, .indirectY => false
  | .y, .indirectY => false
  | _, .target => false

/-- The default configuration of R4: `RESET_PC = 0xFFFC` (DESIGN CHOICE, log entry 1), `RESET_SP = 0x0100` (PRESUMED, log
entry 2), `PAGE_CROSS_RULE = HIGH_BYTE_CHANGED` (90_conflicts.md C2, log entry 7). -/
def Config.default : Config where
  resetPC := 0xFFFC
  resetSP := 0x0100
  pageCrossRule := .highByteChanged
  opcodeMap := defaultOpcodeMap
  loadModes := defaultLoadModes

/-- The register a form loads or stores; JSR has none (R55). -/
def Form.register : Form → Option Reg
  | .ldaImm | .ldaZp | .ldaZpX | .ldaAbs | .ldaAbsX | .ldaAbsY | .ldaIndX | .ldaIndY | .staZp | .staAbs => some .a
  | .ldxImm | .ldxZp | .ldxZpY | .ldxAbs | .ldxAbsY | .stxZp | .stxAbs => some .x
  | .ldyImm | .ldyZp | .ldyZpX | .ldyAbs | .ldyAbsX | .styZp | .styAbs => some .y
  | .jsr => none

/-- The addressing mode of a form (R55). -/
def Form.mode : Form → Mode
  | .ldaImm | .ldxImm | .ldyImm => .immediate
  | .ldaZp | .ldxZp | .ldyZp | .staZp | .stxZp | .styZp => .zeroPage
  | .ldaZpX | .ldyZpX => .zeroPageX
  | .ldxZpY => .zeroPageY
  | .ldaAbs | .ldxAbs | .ldyAbs | .staAbs | .stxAbs | .styAbs => .absolute
  | .ldaAbsX | .ldyAbsX => .absoluteX
  | .ldaAbsY | .ldxAbsY => .absoluteY
  | .ldaIndX => .indirectX
  | .ldaIndY => .indirectY
  | .jsr => .target

/-- The 18 load forms (R54). -/
def Form.isLoad : Form → Bool
  | .staZp | .staAbs | .stxZp | .stxAbs | .styZp | .styAbs | .jsr => false
  | .ldaImm | .ldaZp | .ldaZpX | .ldaAbs | .ldaAbsX | .ldaAbsY | .ldaIndX | .ldaIndY => true
  | .ldxImm | .ldxZp | .ldxZpY | .ldxAbs | .ldxAbsY => true
  | .ldyImm | .ldyZp | .ldyZpX | .ldyAbs | .ldyAbsX => true

/-- The six store forms (43_stores.md R140). -/
def Form.isStore : Form → Bool
  | .staZp | .staAbs | .stxZp | .stxAbs | .styZp | .styAbs => true
  | .ldaImm | .ldaZp | .ldaZpX | .ldaAbs | .ldaAbsX | .ldaAbsY | .ldaIndX | .ldaIndY => false
  | .ldxImm | .ldxZp | .ldxZpY | .ldxAbs | .ldxAbsY => false
  | .ldyImm | .ldyZp | .ldyZpX | .ldyAbs | .ldyAbsX | .jsr => false

/-- The format a mode's operand takes (R50). -/
def Mode.format : Mode → Format
  | .immediate => .imm
  | .zeroPage | .zeroPageX | .zeroPageY | .indirectX | .indirectY => .zp
  | .absolute | .absoluteX | .absoluteY | .target => .abs

/-- The length of an instruction in bytes (R50). -/
def Format.length : Format → Nat
  | .imm => 2
  | .zp => 2
  | .abs => 3

/-- The length of a form: a function of its opcode alone (R51). -/
def Form.length (f : Form) : Nat := f.mode.format.length

/-- The nine modes of the resolver (41_addressing_modes.md R103): the mode list the source fixes (R4, R53). -/
def Mode.resolved : List Mode :=
  [.immediate, .zeroPage, .zeroPageX, .zeroPageY, .absolute, .absoluteX, .absoluteY, .indirectX, .indirectY]

/-- Whether the block implements a form: `LOAD_MODES` selects among the 18 loads (R54), but the source fixes that each register
has an Immediate load, so no parameter takes that away (R4, R53); the stores and JSR always exist (R53). -/
def Config.implements (cfg : Config) (f : Form) : Bool :=
  match f.isLoad, f.register with
  | true, some r => f.mode == .immediate || cfg.loadModes r f.mode
  | _, _ => true

/-- `OPCODE_MAP` is injective (R55: "any injective map from these 25 forms to byte values"). -/
def Config.opcodesDistinct (cfg : Config) : Bool :=
  Form.all.all fun f => Form.all.all fun g => f == g || cfg.opcodeMap f != cfg.opcodeMap g

/-- `LOAD_MODES` says "yes" to Immediate for `A`, `X` and `Y` (R4, R53). -/
def Config.hasImmediateLoads (cfg : Config) : Bool := [Reg.a, .x, .y].all fun r => cfg.loadModes r .immediate

/-- The modes in use are the nine of the mode list (R4, R53): each is the mode of a form the block has, and no load takes JSR's
target operand as its mode. DESIGN CHOICE (log entry 17, safe): a mode counts as in use when any form has it, a store's included,
so a well-formed block may have no ZeroPage or Absolute load; R53 can be read to ask for a load with each mode. -/
def Config.usesTheModeList (cfg : Config) : Bool :=
  (Mode.resolved.all fun m => Form.all.any fun f => cfg.implements f && f.mode == m) &&
    [Reg.a, .x, .y].all fun r => !cfg.loadModes r .target

end Sys2Proof
end

