-- ==== Sys2Proof/Machine/State.lean ====
section
/-! DEFINITION. The state of the block and its attached memory (10_state.md R10, R23; 20_memory.md R30), and the reasons a
step or a host operation can stop. -/

namespace Sys2Proof.Machine

/-- The seven 1-bit flags, each on its own: no packed status byte exists (R14, R16). -/
structure Flags where
  /-- Carry. -/
  c : Bool
  /-- Zero. -/
  z : Bool
  /-- InterruptDisable. -/
  i : Bool
  /-- Decimal. -/
  d : Bool
  /-- Break. -/
  b : Bool
  /-- Overflow. -/
  v : Bool
  /-- Negative. -/
  n : Bool
deriving DecidableEq, Repr

/-- What the block records when it raises UnimplementedOpcode (60_exceptions.md R161). -/
structure FaultRecord where
  /-- The offending opcode byte. -/
  op : Byte
  /-- The address it was fetched from. -/
  address : Word
deriving DecidableEq, Repr

/-- The attached memory: the cells that do not hold `0x00`, by rising address. An unlisted cell reads as `0x00`, the content
`Reset()` gives every cell (R45). -/
abbrev Memory := List Host.Cell

/-- Everything the spec gives the machine (R10 and R30), at an instruction boundary. -/
structure State where
  /-- `PC`, the address of the next opcode byte (R12). -/
  pc : Word
  /-- `SP`, a full 16-bit memory address (R13). -/
  sp : Word
  /-- `A` (R11). -/
  a : Byte
  /-- `X` (R11). -/
  x : Byte
  /-- `Y` (R11). -/
  y : Byte
  /-- The status flags (R14). -/
  flags : Flags
  /-- `remaining`, the signed cycle counter, unbounded (R17, 92 D6); positive while an `Execute` has budget left, 0 while none
  is in progress (log entry 3). -/
  remaining : Int
  /-- The fault latch `FAULT` and its record (R18, R161): `some r` is `FAULT = 1` with `r` recorded, `none` is `FAULT = 0`
  with the record cleared. -/
  fault : Option FaultRecord
  /-- The attached memory (R30). -/
  mem : Memory
deriving DecidableEq, Repr

/-- Why the machine has stopped. -/
inductive Fault where
  /-- `FAULT` is latched: the block executes nothing and reports UnimplementedOpcode again (R85). Raised by `step` alone, in a
  state whose latch an earlier step set. Safe: nothing more is executed until `Reset()`. -/
  | unimplementedOpcode (r : FaultRecord)
deriving DecidableEq, Repr

/-- Why the model gives something no meaning. -/
inductive Refusal where
  /-- An instruction without a meaning yet; raised by `exec` alone. No arm uses it: every instruction has its meaning. Safe. -/
  | notModelled (mnemonic : String)
  /-- A host operation that needs a state value before the first `Reset()`, when there is none (R23, R183, 92 D22). Raised by
  `hostOp` alone. Safe: the launch has no meaning in the spec. -/
  | beforeFirstReset
deriving DecidableEq, Repr

/-- All seven flags 0 (R23). -/
def Flags.cleared : Flags :=
  { c := false, z := false, i := false, d := false, b := false, v := false, n := false }

/-- The state after `Reset()` of a block with the given parameters (R23, R180). `remaining` is not live: 0 (DESIGN CHOICE, log
entry 3). -/
def State.resetUnder (cfg : Config) : State :=
  { pc := cfg.resetPC, sp := cfg.resetSP, a := 0, x := 0, y := 0, flags := Flags.cleared,
    remaining := 0, fault := none, mem := [] }

/-- The machine right after reset, default parameters (R23: `PC = 0xFFFC`, `SP = 0x0100`). -/
def State.reset : State := State.resetUnder Config.default

/-- `FAULT` as one bit (R18). -/
def State.faultLatch (s : State) : Bool := s.fault.isSome

end Sys2Proof.Machine
end

