-- ==== Sys2Proof/Machine/Ops.lean ====
section
/-! DEFINITION. The named operations over memory, registers and the cycle counter (00_scope.md R7; 20_memory.md R31 to R34;
40_dispatch_loop.md R71 to R76), and raising the one exception (60_exceptions.md R160 to R162). There is no return from it
(R164). -/

namespace Sys2Proof.Machine

/-- The answer of an instruction or of a step. -/
abbrev Result := Host.Outcome State Fault Refusal

/-! ### The attached memory as a list of cells -/

/-- What an unlisted cell reads as: `0x00`, the reset content (R45). -/
def Memory.unlisted : Byte := 0x00

/-- Read the cell at an address. -/
def Memory.read : Memory → Nat → Byte
  | [], _ => Memory.unlisted
  | (k, b) :: m, a => if k = a then b else Memory.read m a

/-- Put a cell in its place by address. -/
def Memory.insert : Memory → Nat → Byte → Memory
  | [], a, v => [(a, v)]
  | (k, b) :: m, a, v =>
    if a < k then (a, v) :: (k, b) :: m
    else if a = k then (a, v) :: m
    else (k, b) :: Memory.insert m a v

/-- Take a cell out of the list. -/
def Memory.erase (m : Memory) (a : Nat) : Memory := m.filter fun cell => cell.1 != a

/-- Write the cell at an address: a cell that holds what an unlisted one reads as is not listed. -/
def Memory.write (m : Memory) (a : Nat) (v : Byte) : Memory :=
  if v = Memory.unlisted then Memory.erase m a else Memory.insert m a v

/-- The cells are listed with addresses strictly rising from `bound` up, each a 16-bit address, none holding what an unlisted
cell reads as. -/
def Memory.wfFrom : Nat → Memory → Bool
  | _, [] => true
  | bound, (k, b) :: m => decide (bound ≤ k) && decide (k < 65536) && b != Memory.unlisted && Memory.wfFrom (k + 1) m

/-- The canonical form of memory. -/
def Memory.wf (m : Memory) : Bool := Memory.wfFrom 0 m

/-! ### Memory transactions without a cycle charge -/

/-- `MemRead(addr, 1)` (R31). -/
def State.memRead (s : State) (addr : Word) : Byte := Memory.read s.mem addr.toNat

/-- `MemWrite(addr, 1, v)` (R32). -/
def State.memWrite (s : State) (addr : Word) (v : Byte) : State := { s with mem := Memory.write s.mem addr.toNat v }

/-- `MemRead(addr, 2)`: little-endian, the second address wraps (R33). -/
def State.memReadWord (s : State) (addr : Word) : Word := wordOf (s.memRead (addr + 1)) (s.memRead addr)

/-- `MemWrite(addr, 2, v)`: low byte to `addr`, high byte to `addr +16 1` (R34). -/
def State.memWriteWord (s : State) (addr : Word) (v : Word) : State :=
  (s.memWrite addr (lowByte v)).memWrite (addr + 1) (highByte v)

/-! ### Registers and the cycle counter -/

/-- Read of a general register (R7, R11). -/
def State.reg (s : State) : Reg → Byte
  | .a => s.a
  | .x => s.x
  | .y => s.y

/-- `r <- v` for a general register (R7, R11). -/
def State.setReg (s : State) : Reg → Byte → State
  | .a, v => { s with a := v }
  | .x, v => { s with x := v }
  | .y, v => { s with y := v }

/-- `remaining <- remaining - k` (R7). -/
def State.charge (s : State) (k : Int) : State := { s with remaining := s.remaining - k }

/-- `SP <- v` (R7). -/
def State.setSP (s : State) (v : Word) : State := { s with sp := v }

/-- `PC <- v` (R7). -/
def State.setPC (s : State) (v : Word) : State := { s with pc := v }

/-! ### Transactions that charge cycles -/

/-- What `FetchByte()` does to the state: `PC <- PC +16 1`, one cycle (R71). -/
def State.fetched (s : State) : State := (s.setPC (s.pc + 1)).charge 1

/-- `FetchByte()` (R71). -/
def fetchByte (s : State) : Byte × State := (s.memRead s.pc, s.fetched)

/-- `FetchWord()`: two fetches, low byte first (R72). -/
def fetchWord (s : State) : Word × State :=
  let lo := fetchByte s
  let hi := fetchByte lo.2
  (wordOf hi.1 lo.1, hi.2)

/-- `ReadByteC(addr)` (R73). -/
def readByteC (addr : Word) (s : State) : Byte × State := (s.memRead addr, s.charge 1)

/-- `ReadWordC(addr)` (R74). -/
def readWordC (addr : Word) (s : State) : Word × State := (s.memReadWord addr, s.charge 2)

/-- `WriteByteC(addr, v)` (R75). -/
def writeByteC (addr : Word) (v : Byte) (s : State) : State := (s.memWrite addr v).charge 1

/-- `WriteWordC(addr, w)` (R76). -/
def writeWordC (addr : Word) (w : Word) (s : State) : State := (s.memWriteWord addr w).charge 2

/-! ### The one exception -/

/-- `raise UnimplementedOpcode(op, at)`: the latch is set and the record made (R160, R161); nothing else is touched: no save, no
vector, no redirection of `PC` (R162). -/
def raiseUnimplementedOpcode (op : Byte) (address : Word) (s : State) : State :=
  { s with fault := some { op := op, address := address } }

end Sys2Proof.Machine
end

