-- ==== Sys2Proof/Machine/Operands.lean ====
section
/-! DEFINITION. The addressing-mode resolver (41_addressing_modes.md R90 to R103). Each mode function takes the operand the
decoder has read, and the state with `PC` at byte 1 of the instruction; it advances `PC` past the operand bytes and charges the
mode's cycles, and writes nothing else (R102). That the operand is what `FetchByte()` and `FetchWord()` return there is proved in
Laws/Ops.lean (instrBytes_eq_fetches). -/

namespace Sys2Proof.Machine

/-- `PageCrossed(base, index)` under each value of `PAGE_CROSS_RULE` (R90): R91, R92. -/
def pageCrossed : PageCrossRule → Word → Byte → Bool
  | .highByteChanged, base, index => highByte (base + zext16 index) != highByte base
  | .asImplemented, _, index => index == 0xFF

/-- One more cycle if a page boundary is crossed (R98, R99, R101). -/
def chargePageCross (rule : PageCrossRule) (base : Word) (index : Byte) (s : State) : State :=
  if pageCrossed rule base index then s.charge 1 else s

/-- `Imm()`: the value itself, one fetch (R93; 90_conflicts.md C1). -/
def modeImm (b : Byte) (s : State) : Byte × State := (b, s.fetched)

/-- `AddrZP()` (R94). -/
def addrZP (b : Byte) (s : State) : Word × State := (zext16 b, s.fetched)

/-- `AddrZPX()`: the sum wraps in the zero page, one cycle for the index add (R95). -/
def addrZPX (b : Byte) (s : State) : Word × State := (zext16 (b + s.x), s.fetched.charge 1)

/-- `AddrZPY()` (R96). -/
def addrZPY (b : Byte) (s : State) : Word × State := (zext16 (b + s.y), s.fetched.charge 1)

/-- `AddrAbs()`: two fetches (R97). -/
def addrAbs (w : Word) (s : State) : Word × State := (w, s.fetched.fetched)

/-- `AddrAbsX()` (R98). -/
def addrAbsX (rule : PageCrossRule) (base : Word) (s : State) : Word × State :=
  (base + zext16 s.x, chargePageCross rule base s.x s.fetched.fetched)

/-- `AddrAbsY()` (R99). -/
def addrAbsY (rule : PageCrossRule) (base : Word) (s : State) : Word × State :=
  (base + zext16 s.y, chargePageCross rule base s.y s.fetched.fetched)

/-- `AddrIndX()`: the pointer's own address wraps in the zero page, its second byte does not (R100, 92 D11). -/
def addrIndX (b : Byte) (s : State) : Word × State :=
  readWordC (zext16 (b + s.x)) (s.fetched.charge 1)

/-- `AddrIndY()` (R101, 92 D11). -/
def addrIndY (rule : PageCrossRule) (b : Byte) (s : State) : Word × State :=
  let base := readWordC (zext16 b) s.fetched
  (base.1 + zext16 s.y, chargePageCross rule base.1 s.y base.2)

end Sys2Proof.Machine
end

