-- ==== Sys2Proof/Machine/ControlTransfer.lean ====
section
/-! DEFINITION. The one control transfer (44_jsr.md R150 to R154). -/

namespace Sys2Proof.Machine

/-- JSR (R150): after the opcode and target fetches, the word `PC -16 1` goes to `SP`, `SP` rises by one, `PC` becomes the
target, and a final cycle is charged. No flag and no general register is written (92 D12). -/
def execJsr (target : Word) (s : State) : Result :=
  let s1 := s.fetched.fetched.fetched
  let s2 := writeWordC s1.sp (s1.pc - 1) s1
  .next (((s2.setSP (s2.sp + 1)).setPC target).charge 1)

end Sys2Proof.Machine
end

