-- ==== Sys2Proof/Machine/Flags.lean ====
section
/-! DEFINITION. The flag update unit (42_loads.md R110): the only flag computation of the subset. -/

namespace Sys2Proof.Machine

/-- The flags after a load of `v`: `F.Z = (v == 0)`, `F.N = v[7]`, the other five as they were (R110, R111). -/
def Flags.updateZN (f : Flags) (v : Byte) : Flags := { f with z := v == 0, n := v.getLsbD 7 }

/-- `SetZN(v)` (R110). -/
def State.setZN (s : State) (v : Byte) : State := { s with flags := Flags.updateZN s.flags v }

end Sys2Proof.Machine
end

