-- ==== Sys2Proof/Machine/Loads.lean ====
section
/-! DEFINITION. The 18 register loads (42_loads.md R112 to R130). In each, `s.fetched` is the opcode fetch (R77): the state goes
from one instruction boundary to the next. A form whose cost depends on `PAGE_CROSS_RULE` (R90) has a definition that takes the
rule, and its meaning is that definition at the default configuration's rule. -/

namespace Sys2Proof.Machine

/-- The common tail `Load(r, v)`, given the byte obtained and the state it was obtained in (R112). -/
def load (r : Reg) (v : Byte × State) : Result := .next ((v.2.setReg r v.1).setZN v.1)

/-- The final read of a memory-mode load at the effective address the resolver produced, then the tail (R102, R112). -/
def loadAt (r : Reg) (ea : Word × State) : Result := load r (readByteC ea.1 ea.2)

/-- LDA Immediate (R113). -/
def execLdaImm (imm : Byte) (s : State) : Result := load .a (modeImm imm s.fetched)

/-- LDA ZeroPage (R114). -/
def execLdaZp (zp : Byte) (s : State) : Result := loadAt .a (addrZP zp s.fetched)

/-- LDA ZeroPage,X (R115). -/
def execLdaZpX (zp : Byte) (s : State) : Result := loadAt .a (addrZPX zp s.fetched)

/-- LDA Absolute (R116). -/
def execLdaAbs (addr : Word) (s : State) : Result := loadAt .a (addrAbs addr s.fetched)

/-- LDA Absolute,X under a given page-crossing rule (R117). -/
def execLdaAbsXUnder (rule : PageCrossRule) (base : Word) (s : State) : Result :=
  loadAt .a (addrAbsX rule base s.fetched)

/-- LDA Absolute,X (R117). -/
def execLdaAbsX (base : Word) (s : State) : Result := execLdaAbsXUnder Config.default.pageCrossRule base s

/-- LDA Absolute,Y under a given page-crossing rule (R118). -/
def execLdaAbsYUnder (rule : PageCrossRule) (base : Word) (s : State) : Result :=
  loadAt .a (addrAbsY rule base s.fetched)

/-- LDA Absolute,Y (R118). -/
def execLdaAbsY (base : Word) (s : State) : Result := execLdaAbsYUnder Config.default.pageCrossRule base s

/-- LDA (Indirect,X) (R119). -/
def execLdaIndX (zp : Byte) (s : State) : Result := loadAt .a (addrIndX zp s.fetched)

/-- LDA (Indirect),Y under a given page-crossing rule (R120). -/
def execLdaIndYUnder (rule : PageCrossRule) (zp : Byte) (s : State) : Result :=
  loadAt .a (addrIndY rule zp s.fetched)

/-- LDA (Indirect),Y (R120). -/
def execLdaIndY (zp : Byte) (s : State) : Result := execLdaIndYUnder Config.default.pageCrossRule zp s

/-- LDX Immediate (R121). -/
def execLdxImm (imm : Byte) (s : State) : Result := load .x (modeImm imm s.fetched)

/-- LDX ZeroPage (R122). -/
def execLdxZp (zp : Byte) (s : State) : Result := loadAt .x (addrZP zp s.fetched)

/-- LDX ZeroPage,Y (R123). -/
def execLdxZpY (zp : Byte) (s : State) : Result := loadAt .x (addrZPY zp s.fetched)

/-- LDX Absolute (R124). -/
def execLdxAbs (addr : Word) (s : State) : Result := loadAt .x (addrAbs addr s.fetched)

/-- LDX Absolute,Y under a given page-crossing rule (R125). -/
def execLdxAbsYUnder (rule : PageCrossRule) (base : Word) (s : State) : Result :=
  loadAt .x (addrAbsY rule base s.fetched)

/-- LDX Absolute,Y (R125). -/
def execLdxAbsY (base : Word) (s : State) : Result := execLdxAbsYUnder Config.default.pageCrossRule base s

/-- LDY Immediate (R126). -/
def execLdyImm (imm : Byte) (s : State) : Result := load .y (modeImm imm s.fetched)

/-- LDY ZeroPage (R127). -/
def execLdyZp (zp : Byte) (s : State) : Result := loadAt .y (addrZP zp s.fetched)

/-- LDY ZeroPage,X (R128). -/
def execLdyZpX (zp : Byte) (s : State) : Result := loadAt .y (addrZPX zp s.fetched)

/-- LDY Absolute (R129). -/
def execLdyAbs (addr : Word) (s : State) : Result := loadAt .y (addrAbs addr s.fetched)

/-- LDY Absolute,X under a given page-crossing rule (R130). -/
def execLdyAbsXUnder (rule : PageCrossRule) (base : Word) (s : State) : Result :=
  loadAt .y (addrAbsX rule base s.fetched)

/-- LDY Absolute,X (R130). -/
def execLdyAbsX (base : Word) (s : State) : Result := execLdyAbsXUnder Config.default.pageCrossRule base s

end Sys2Proof.Machine
end

