-- ==== Sys2Proof/Machine/Stores.lean ====
section
/-! DEFINITION. The six register stores (43_stores.md R140 to R146). In each, `s.fetched` is the opcode fetch (R77). All bytes of
the instruction have been read before the write (20_memory.md R43, R47). -/

namespace Sys2Proof.Machine

/-- Write a register to the effective address the resolver produced (R140). -/
def storeAt (r : Reg) (ea : Word × State) : Result := .next (writeByteC ea.1 (ea.2.reg r) ea.2)

/-- STA ZeroPage (R141). -/
def execStaZp (zp : Byte) (s : State) : Result := storeAt .a (addrZP zp s.fetched)

/-- STA Absolute (R142). -/
def execStaAbs (addr : Word) (s : State) : Result := storeAt .a (addrAbs addr s.fetched)

/-- STX ZeroPage (R143). -/
def execStxZp (zp : Byte) (s : State) : Result := storeAt .x (addrZP zp s.fetched)

/-- STX Absolute (R144). -/
def execStxAbs (addr : Word) (s : State) : Result := storeAt .x (addrAbs addr s.fetched)

/-- STY ZeroPage (R145). -/
def execStyZp (zp : Byte) (s : State) : Result := storeAt .y (addrZP zp s.fetched)

/-- STY Absolute (R146). -/
def execStyAbs (addr : Word) (s : State) : Result := storeAt .y (addrAbs addr s.fetched)

end Sys2Proof.Machine
end

