-- ==== Sys2Proof/Syntax.lean ====
section
/-! DEFINITION. The instructions: one constructor per row of spec/opcode_table.json (30_encoding.md R55). An operand is the
operand value R52 builds from the instruction bytes: a byte, or the 16-bit word `b2:b1`. -/

namespace Sys2Proof

/-- The 25 instructions of R55 with their operands (R50, R52). -/
inductive Instr where
  /-- LDA Immediate (R113). -/
  | ldaImm (imm : Byte)
  /-- LDA ZeroPage (R114). -/
  | ldaZp (zp : Byte)
  /-- LDA ZeroPage,X (R115). -/
  | ldaZpX (zp : Byte)
  /-- LDA Absolute (R116). -/
  | ldaAbs (addr : Word)
  /-- LDA Absolute,X (R117). -/
  | ldaAbsX (base : Word)
  /-- LDA Absolute,Y (R118). -/
  | ldaAbsY (base : Word)
  /-- LDA (Indirect,X) (R119). -/
  | ldaIndX (zp : Byte)
  /-- LDA (Indirect),Y (R120). -/
  | ldaIndY (zp : Byte)
  /-- LDX Immediate (R121). -/
  | ldxImm (imm : Byte)
  /-- LDX ZeroPage (R122). -/
  | ldxZp (zp : Byte)
  /-- LDX ZeroPage,Y (R123). -/
  | ldxZpY (zp : Byte)
  /-- LDX Absolute (R124). -/
  | ldxAbs (addr : Word)
  /-- LDX Absolute,Y (R125). -/
  | ldxAbsY (base : Word)
  /-- LDY Immediate (R126). -/
  | ldyImm (imm : Byte)
  /-- LDY ZeroPage (R127). -/
  | ldyZp (zp : Byte)
  /-- LDY ZeroPage,X (R128). -/
  | ldyZpX (zp : Byte)
  /-- LDY Absolute (R129). -/
  | ldyAbs (addr : Word)
  /-- LDY Absolute,X (R130). -/
  | ldyAbsX (base : Word)
  /-- STA ZeroPage (R141). -/
  | staZp (zp : Byte)
  /-- STA Absolute (R142). -/
  | staAbs (addr : Word)
  /-- STX ZeroPage (R143). -/
  | stxZp (zp : Byte)
  /-- STX Absolute (R144). -/
  | stxAbs (addr : Word)
  /-- STY ZeroPage (R145). -/
  | styZp (zp : Byte)
  /-- STY Absolute (R146). -/
  | styAbs (addr : Word)
  /-- JSR (R150). -/
  | jsr (target : Word)
deriving DecidableEq, Repr

end Sys2Proof
end

