-- ==== Sys2Proof/WellFormed.lean ====
section
/-! DEFINITION. When a configuration and an instruction are well formed. A configuration must keep what the source fixes of its
parameters (00_scope.md R4). Every operand value is legal for every form (30_encoding.md R57), so what can be wrong with an
instruction is only that the block's `LOAD_MODES` lacks its form (R54). -/

namespace Sys2Proof

/-- The form of an instruction: the instruction without its operand. -/
def Instr.form : Instr → Form
  | .ldaImm _ => .ldaImm
  | .ldaZp _ => .ldaZp
  | .ldaZpX _ => .ldaZpX
  | .ldaAbs _ => .ldaAbs
  | .ldaAbsX _ => .ldaAbsX
  | .ldaAbsY _ => .ldaAbsY
  | .ldaIndX _ => .ldaIndX
  | .ldaIndY _ => .ldaIndY
  | .ldxImm _ => .ldxImm
  | .ldxZp _ => .ldxZp
  | .ldxZpY _ => .ldxZpY
  | .ldxAbs _ => .ldxAbs
  | .ldxAbsY _ => .ldxAbsY
  | .ldyImm _ => .ldyImm
  | .ldyZp _ => .ldyZp
  | .ldyZpX _ => .ldyZpX
  | .ldyAbs _ => .ldyAbs
  | .ldyAbsX _ => .ldyAbsX
  | .staZp _ => .staZp
  | .staAbs _ => .staAbs
  | .stxZp _ => .stxZp
  | .stxAbs _ => .stxAbs
  | .styZp _ => .styZp
  | .styAbs _ => .styAbs
  | .jsr _ => .jsr

/-- The parameters keep what R4 fixes: `OPCODE_MAP` is injective (R55), and `LOAD_MODES` has Immediate for all three registers
and uses the nine modes of the mode list (R53). -/
def Config.wellFormed (cfg : Config) : Bool := cfg.opcodesDistinct && cfg.hasImmediateLoads && cfg.usesTheModeList

/-- The block has the instruction's form: a form its `LOAD_MODES` marks "no" has no opcode and cannot be executed (R54). -/
def Instr.wellFormedUnder (cfg : Config) (i : Instr) : Bool := cfg.implements i.form

/-- Well formed for the default configuration. -/
def Instr.wellFormed (i : Instr) : Bool := i.wellFormedUnder Config.default

end Sys2Proof
end

