-- ==== Sys2Proof/Decode.lean ====
section
/-! DEFINITION. The decoder, total on any bytes and rejecting by name, and the encoder, both from 30_encoding.md R50 to R57.
Each takes the configuration's `OPCODE_MAP` and `LOAD_MODES` (R4); `decode` and `encode` are for the default one. -/

namespace Sys2Proof

/-- Why bytes are no instruction. -/
inductive DecodeError where
  /-- The opcode byte is not one of the implemented ones (R56); the block raises UnimplementedOpcode on it (R160). -/
  | unimplementedOpcode (op : Byte)
  /-- The list of bytes ends before the instruction does; memory never does (R60), so the block never meets it. -/
  | truncated
deriving DecidableEq, Repr

/-- Look up the form of an opcode byte: all eight bits are matched (R50, R84). -/
def decodeOpcodeUnder (cfg : Config) (op : Byte) : Option Form :=
  Form.all.find? fun f => cfg.implements f && cfg.opcodeMap f == op

/-- The form of an opcode byte under the default `OPCODE_MAP` (R55). -/
def decodeOpcode (op : Byte) : Option Form := decodeOpcodeUnder Config.default op

/-- The operand of the formats `IMM` and `ZP`: byte 1 (R50). -/
def byteOperand (mk : Byte → Instr) : List Byte → Except DecodeError (Instr × List Byte)
  | b1 :: rest => .ok (mk b1, rest)
  | [] => .error .truncated

/-- The operand of the format `ABS`: the word `b2:b1`, low byte first (R50, R52). -/
def wordOperand (mk : Word → Instr) : List Byte → Except DecodeError (Instr × List Byte)
  | b1 :: b2 :: rest => .ok (mk (Machine.wordOf b2 b1), rest)
  | _ => .error .truncated

/-- The instruction of a form, its operand read from the bytes after the opcode (R52). -/
def decodeForm : Form → List Byte → Except DecodeError (Instr × List Byte)
  | .ldaImm => byteOperand .ldaImm
  | .ldaZp => byteOperand .ldaZp
  | .ldaZpX => byteOperand .ldaZpX
  | .ldaAbs => wordOperand .ldaAbs
  | .ldaAbsX => wordOperand .ldaAbsX
  | .ldaAbsY => wordOperand .ldaAbsY
  | .ldaIndX => byteOperand .ldaIndX
  | .ldaIndY => byteOperand .ldaIndY
  | .ldxImm => byteOperand .ldxImm
  | .ldxZp => byteOperand .ldxZp
  | .ldxZpY => byteOperand .ldxZpY
  | .ldxAbs => wordOperand .ldxAbs
  | .ldxAbsY => wordOperand .ldxAbsY
  | .ldyImm => byteOperand .ldyImm
  | .ldyZp => byteOperand .ldyZp
  | .ldyZpX => byteOperand .ldyZpX
  | .ldyAbs => wordOperand .ldyAbs
  | .ldyAbsX => wordOperand .ldyAbsX
  | .staZp => byteOperand .staZp
  | .staAbs => wordOperand .staAbs
  | .stxZp => byteOperand .stxZp
  | .stxAbs => wordOperand .stxAbs
  | .styZp => byteOperand .styZp
  | .styAbs => wordOperand .styAbs
  | .jsr => wordOperand .jsr

/-- Decode one instruction from the front of a list of bytes: byte 0 decides the form and so the length (R51). -/
def decodeUnder (cfg : Config) : List Byte → Except DecodeError (Instr × List Byte)
  | [] => .error .truncated
  | op :: rest =>
    match decodeOpcodeUnder cfg op with
    | some f => decodeForm f rest
    | none => .error (.unimplementedOpcode op)

/-- The decoder of the default configuration. -/
def decode (bytes : List Byte) : Except DecodeError (Instr × List Byte) := decodeUnder Config.default bytes

/-- A word operand as its two bytes, low byte first (R52). -/
def wordBytes (w : Word) : List Byte := [Machine.lowByte w, Machine.highByte w]

/-- The operand bytes of an instruction (R50). -/
def Instr.operandBytes : Instr → List Byte
  | .ldaImm b | .ldaZp b | .ldaZpX b | .ldaIndX b | .ldaIndY b => [b]
  | .ldxImm b | .ldxZp b | .ldxZpY b => [b]
  | .ldyImm b | .ldyZp b | .ldyZpX b => [b]
  | .staZp b | .stxZp b | .styZp b => [b]
  | .ldaAbs w | .ldaAbsX w | .ldaAbsY w => wordBytes w
  | .ldxAbs w | .ldxAbsY w => wordBytes w
  | .ldyAbs w | .ldyAbsX w => wordBytes w
  | .staAbs w | .stxAbs w | .styAbs w | .jsr w => wordBytes w

/-- The bytes of an instruction: its opcode, then its operand bytes (R50). -/
def encodeUnder (cfg : Config) (i : Instr) : List Byte := cfg.opcodeMap i.form :: i.operandBytes

/-- The encoder of the default configuration. -/
def encode (i : Instr) : List Byte := encodeUnder Config.default i

/-- The first three bytes of an instruction numbered as spec/opcode_table.json numbers its bits: byte 0 is bits 7..0 of `w`,
byte 1 bits 15..8, byte 2 bits 23..16; every bit from `nbits` up is 0. Three bytes are the longest instruction (R50). -/
def tableBytes (nbits w : Nat) : List Byte :=
  let v := w % 2 ^ nbits
  [BitVec.ofNat 8 v, BitVec.ofNat 8 (v / 256), BitVec.ofNat 8 (v / 65536)]

/-- The instruction the decoder reads from an instruction whose bits are `w`. -/
def decodeTableWord (nbits w : Nat) : Option Instr :=
  match decode (tableBytes nbits w) with
  | .ok (i, _) => some i
  | .error _ => none

end Sys2Proof
end

