-- ==== Sys2Proof/Machine/Fetch.lean ====
section
/-! DEFINITION. Reading the instruction at `PC` (30_encoding.md R50, R51, R60) and placing one there. -/

namespace Sys2Proof.Machine

/-- The three bytes at `PC`, `PC +16 1`, `PC +16 2`: as long as the longest instruction, wrapping at the top of memory (R50, R60).
Reads have no effect (R31), so reading past a two-byte instruction cannot be observed. -/
def instrBytes (s : State) : List Byte := [s.memRead s.pc, s.memRead (s.pc + 1), s.memRead (s.pc + 2)]

/-- The instruction at `PC` under a configuration, or why there is none (R51, R56). -/
def instrAtUnder (cfg : Config) (s : State) : Except DecodeError Instr :=
  match decodeUnder cfg (instrBytes s) with
  | .ok (i, _) => .ok i
  | .error e => .error e

/-- The instruction at `PC`. -/
def instrAt (s : State) : Except DecodeError Instr := instrAtUnder Config.default s

/-- Store a list of bytes at consecutive addresses, each `+16 1` from the one before. -/
def placeBytes : List Byte → Word → State → State
  | [], _, s => s
  | b :: bs, addr, s => placeBytes bs (addr + 1) (s.memWrite addr b)

/-- Put an instruction's bytes at `PC` and let the next step run it: the latch is cleared, and if no budget is left one cycle of
it is given, as `Execute(1)` gives (60_exceptions.md R174; log entry 14). -/
def placeInstruction (bytes : List Byte) (s : State) : State :=
  let s1 := placeBytes bytes s.pc s
  { s1 with fault := none, remaining := if 0 < s1.remaining then s1.remaining else 1 }

end Sys2Proof.Machine
end

