-- ==== Sys2Proof/Machine/Parametric.lean ====
section
/-! DEFINITION. Every instruction under any configuration (00_scope.md R4, R90): only the page-crossing rule matters to an
instruction once it is decoded. `exec` is `execUnder Config.default` (exec_eq_execUnder of Laws/Ops.lean). -/

namespace Sys2Proof.Machine

/-- The dispatch table with `PAGE_CROSS_RULE` as a parameter (R84, R90). -/
def execUnder (cfg : Config) (i : Instr) (s : State) : Result :=
  match i with
  | .ldaImm imm => execLdaImm imm s
  | .ldaZp zp => execLdaZp zp s
  | .ldaZpX zp => execLdaZpX zp s
  | .ldaAbs addr => execLdaAbs addr s
  | .ldaAbsX base => execLdaAbsXUnder cfg.pageCrossRule base s
  | .ldaAbsY base => execLdaAbsYUnder cfg.pageCrossRule base s
  | .ldaIndX zp => execLdaIndX zp s
  | .ldaIndY zp => execLdaIndYUnder cfg.pageCrossRule zp s
  | .ldxImm imm => execLdxImm imm s
  | .ldxZp zp => execLdxZp zp s
  | .ldxZpY zp => execLdxZpY zp s
  | .ldxAbs addr => execLdxAbs addr s
  | .ldxAbsY base => execLdxAbsYUnder cfg.pageCrossRule base s
  | .ldyImm imm => execLdyImm imm s
  | .ldyZp zp => execLdyZp zp s
  | .ldyZpX zp => execLdyZpX zp s
  | .ldyAbs addr => execLdyAbs addr s
  | .ldyAbsX base => execLdyAbsXUnder cfg.pageCrossRule base s
  | .staZp zp => execStaZp zp s
  | .staAbs addr => execStaAbs addr s
  | .stxZp zp => execStxZp zp s
  | .stxAbs addr => execStxAbs addr s
  | .styZp zp => execStyZp zp s
  | .styAbs addr => execStyAbs addr s
  | .jsr target => execJsr target s

end Sys2Proof.Machine
end

