-- ==== Sys2Proof/Machine/Loop.lean ====
section
/-! DEFINITION. The fetch/decode/execute loop (40_dispatch_loop.md R70 to R86): `Step()`, one turn of the loop, and
`Execute`. Each is written once over a configuration and the instructions' meanings, then taken at `exec`. -/

namespace Sys2Proof.Machine

/-- `Step()` (R77): the instruction at `PC` runs, or the opcode fetch is made and UnimplementedOpcode raised (R160 to R162). -/
def runInstruction (cfg : Config) (run : Instr → State → Result) (s : State) : Result :=
  match instrAtUnder cfg s with
  | .ok i => run i s
  | .error _ => .next (raiseUnimplementedOpcode (s.memRead s.pc) s.pc s.fetched)

/-- One turn of the block: with `FAULT` latched it executes nothing and reports the fault again (R85); while `remaining > 0` it
runs one instruction (R78); otherwise it is idle and keeps its state (R79, R81; 60_exceptions.md R175). -/
def turn (cfg : Config) (run : Instr → State → Result) (s : State) : Result :=
  match s.fault with
  | some r => .fault (.unimplementedOpcode r)
  | none => if 0 < s.remaining then runInstruction cfg run s else .next s

/-- One turn of the block of the default configuration. -/
def turnDefault (s : State) : Result := turn Config.default exec s

/-- One turn of the block of any configuration. -/
def turnUnder (cfg : Config) (s : State) : Result := turn cfg (execUnder cfg) s

/-- The loop test of R78, and the abort of R162: `Execute` goes on only without a fault and with budget left. -/
def State.goesOn (s : State) : Bool := s.fault.isNone && decide (0 < s.remaining)

/-- The loop of R78, with at most `fuel` turns. -/
def executeLoop (next : State → Result) : Nat → State → State
  | 0, s => s
  | fuel + 1, s =>
    if s.goesOn then
      match next s with
      | .next t => executeLoop next fuel t
      | .fault _ => s
      | .refused _ => s
    else s

/-- How an `Execute` ends (R70, R196). -/
inductive ExecuteEnd where
  /-- It returns `cyclesUsed` (R80). -/
  | returned (cyclesUsed : Int) (s : State)
  /-- It signals UnimplementedOpcode and there is no result (R162); also when the latch was set on entry (R85). -/
  | raised (r : FaultRecord) (s : State)
deriving DecidableEq, Repr

/-- `Execute(cyclesRequested)` (R70, R78, R80, R81, R85), over one turn of the block. A turn that raises nothing lowers
`remaining` by at least 2 (R83), so a budget of `c` needs at most `c` turns. When it returns, `remaining` is no longer live
(R86): 0 (log entry 3). -/
def executeOver (next : State → Result) (cyclesRequested : Int) (s : State) : ExecuteEnd :=
  match s.fault with
  | some r => .raised r s
  | none =>
    let t := executeLoop next cyclesRequested.toNat { s with remaining := cyclesRequested }
    match t.fault with
    | some r => .raised r t
    | none => .returned (cyclesRequested - t.remaining) { t with remaining := 0 }

/-- `Execute` of the default configuration. -/
def execute (cyclesRequested : Int) (s : State) : ExecuteEnd := executeOver turnDefault cyclesRequested s

/-- `Execute` of any configuration. -/
def executeUnder (cfg : Config) (cyclesRequested : Int) (s : State) : ExecuteEnd :=
  executeOver (turnUnder cfg) cyclesRequested s

end Sys2Proof.Machine
end

