-- ==== Sys2Proof/Machine/Step.lean ====
section
/-! DEFINITION. One step of the machine, and the placing of one instruction for the next step. -/

namespace Sys2Proof.Machine

/-- One step: one turn of the block (40_dispatch_loop.md R77, R78, R85). -/
def step (s : State) : Host.Outcome State Fault Refusal := turnDefault s

/-- `s` with the instruction whose bits are `w` at `PC`, numbered as spec/opcode_table.json numbers them, and a budget of at
least one cycle, so that the next step runs exactly it (log entry 14). -/
def State.withFetchWord (s : State) (nbits w : Nat) : State := placeInstruction (tableBytes nbits w) s

end Sys2Proof.Machine
end

