-- ==== Sys2Proof/Machine/HostPort.lean ====
section
/-! DEFINITION. The host's operations on the block and its memory (10_state.md R21, R22; 20_memory.md R45, R46;
70_reset_and_hazards.md R180, R184 to R187). They happen between `Execute` calls only, each as a whole. -/

namespace Sys2Proof.Machine

/-- The name of a flag (R14). -/
inductive FlagName where
  | c
  | z
  | i
  | d
  | b
  | v
  | n
deriving DecidableEq, Repr

/-- Everything the host can do (R184 to R187). There is no access to `remaining`, and none to `FAULT` but through `reset` (R187). -/
inductive HostOp where
  /-- `Reset()` (R180, R184). -/
  | reset
  /-- `Execute(cyclesRequested)` (R185). -/
  | execute (cyclesRequested : Int)
  /-- `Initialise()`: every cell becomes 0, the registers stay (R46). -/
  | initialise
  /-- Byte read of a cell (R46). -/
  | readByte (addr : Word)
  /-- Byte write of a cell (R46). -/
  | writeByte (addr : Word) (v : Byte)
  /-- `ReadWord(address)` (R46). -/
  | readWord (addr : Word)
  /-- `WriteWord(value, address)`: value first (R34, R46). -/
  | writeWord (value : Word) (addr : Word)
  /-- Read `PC` (R22). -/
  | readPC
  /-- Write `PC` (R22). -/
  | writePC (v : Word)
  /-- Read `SP` (R22). -/
  | readSP
  /-- Write `SP` (R22). -/
  | writeSP (v : Word)
  /-- Read `A`, `X` or `Y` (R22). -/
  | readReg (r : Reg)
  /-- Write `A`, `X` or `Y` (R22). -/
  | writeReg (r : Reg) (v : Byte)
  /-- Read a flag (R22). -/
  | readFlag (f : FlagName)
  /-- Write a flag (R22). -/
  | writeFlag (f : FlagName) (v : Bool)
deriving DecidableEq, Repr

/-- The block as the host has it: before the first `Reset()` nothing in it has a value (R23, 92 D22). -/
inductive Block where
  | beforeReset
  | ready (s : State)
deriving DecidableEq, Repr

/-- What the host gets back. -/
inductive HostAnswer where
  | done
  | byte (v : Byte)
  | word (v : Word)
  | flag (v : Bool)
  | cyclesUsed (n : Int)
  | unimplementedOpcode (r : FaultRecord)
deriving DecidableEq, Repr

/-- One flag by its name. -/
def Flags.get (f : Flags) : FlagName → Bool
  | .c => f.c
  | .z => f.z
  | .i => f.i
  | .d => f.d
  | .b => f.b
  | .v => f.v
  | .n => f.n

/-- Write one flag by its name. -/
def Flags.set (f : Flags) : FlagName → Bool → Flags
  | .c, w => { f with c := w }
  | .z, w => { f with z := w }
  | .i, w => { f with i := w }
  | .d, w => { f with d := w }
  | .b, w => { f with b := w }
  | .v, w => { f with v := w }
  | .n, w => { f with n := w }

/-- `Initialise()` (R46): every cell becomes 0 and the registers stay. -/
def State.initialiseMemory (s : State) : State := { s with mem := [] }

/-- A host operation on a block that has been reset; word helpers charge nothing outside an `Execute` (R46, 92 D15). -/
def hostOpReady (cfg : Config) (s : State) : HostOp → State × HostAnswer
  | .reset => (State.resetUnder cfg, .done)
  | .execute c =>
    match executeUnder cfg c s with
    | .returned used t => (t, .cyclesUsed used)
    | .raised r t => (t, .unimplementedOpcode r)
  | .initialise => (s.initialiseMemory, .done)
  | .readByte addr => (s, .byte (s.memRead addr))
  | .writeByte addr v => (s.memWrite addr v, .done)
  | .readWord addr => (s, .word (s.memReadWord addr))
  | .writeWord value addr => (s.memWriteWord addr value, .done)
  | .readPC => (s, .word s.pc)
  | .writePC v => (s.setPC v, .done)
  | .readSP => (s, .word s.sp)
  | .writeSP v => (s.setSP v, .done)
  | .readReg r => (s, .byte (s.reg r))
  | .writeReg r v => (s.setReg r v, .done)
  | .readFlag f => (s, .flag (s.flags.get f))
  | .writeFlag f v => ({ s with flags := s.flags.set f v }, .done)

/-- A host operation before the first `Reset()`: only `Reset()` gives the state values; a write is forgotten, since no cell and no
register holds a value until then, and an operation that needs a value is refused (R23, R183, 92 D22; log entry 12). -/
def hostOpBeforeReset (cfg : Config) : HostOp → Host.Outcome (Block × HostAnswer) Fault Refusal
  | .reset => .next (.ready (State.resetUnder cfg), .done)
  | .initialise | .writeByte _ _ | .writeWord _ _ | .writePC _ | .writeSP _ | .writeReg _ _ | .writeFlag _ _ =>
    .next (.beforeReset, .done)
  | .execute _ | .readByte _ | .readWord _ | .readPC | .readSP | .readReg _ | .readFlag _ => .refused .beforeFirstReset

/-- A host operation on a block of a given configuration (R184 to R187). -/
def hostOp (cfg : Config) (op : HostOp) : Block → Host.Outcome (Block × HostAnswer) Fault Refusal
  | .beforeReset => hostOpBeforeReset cfg op
  | .ready s => .next (.ready (hostOpReady cfg s op).1, (hostOpReady cfg s op).2)

end Sys2Proof.Machine
end

