-- ==== Sys2Proof/Safety.lean ====
section
/-! DEFINITION. What claims about runs are stated in: the whole-instruction sequence of a program, when a state may be the end
of a run, and the invariant of the machine. -/

namespace Sys2Proof.Machine

/-- A faulted state is never the final state of a run (60_exceptions.md R162, 92 D7). -/
def State.mayBeFinal (s : State) : Bool := s.fault.isNone

/-- The state after the next instruction of the program, whatever the budget (the `next(s)` of R83), with `remaining` not live;
`none` if the opcode at `PC` is unimplemented or the latch is set. -/
def nextInstruction (s : State) : Option State :=
  match step { s with remaining := 1 } with
  | .next t => if t.fault.isNone then some { t with remaining := 0 } else none
  | .fault _ => none
  | .refused _ => none

/-- The state after `n` instructions of the one sequence the program determines (R82). -/
def afterInstructions : Nat → State → Option State
  | 0, s => some { s with remaining := 0 }
  | n + 1, s => (nextInstruction s).bind (afterInstructions n)

/-- The cycle total of the instruction at `PC` (the `cost(s)` of R83): how far one step lowers `remaining`. -/
def cost (s : State) : Int :=
  match step { s with remaining := 1 } with
  | .next t => 1 - t.remaining
  | .fault _ => 0
  | .refused _ => 0

/-- What every step keeps: memory is in its canonical form (R24), `remaining` is at least `-5` (10_state.md R17), and a latched
record names an unimplemented opcode whose address is one before `PC` (60_exceptions.md R161, R162). -/
def State.inv (s : State) : Bool :=
  Memory.wf s.mem && decide (-5 ≤ s.remaining) &&
    match s.fault with
    | none => true
    | some r => (decodeOpcode r.op).isNone && r.address + 1 == s.pc

end Sys2Proof.Machine
end

