-- ==== Sys2Proof/Certificates/Slice0/Obligations.lean ====
section
/-! DEFINITION. The statements for the provers. Each docstring names the rule of spec/ it formalises. The definitions under
Sys2Proof.Claims say results in plain arithmetic and record updates, not in the model's own operations. -/

namespace Sys2Proof.Claims

open Sys2Proof.Machine

/-- The state after a load of `v` into `r` by an instruction of the given length and cycle total (42_loads.md R110, R111): the
register, `Z`, `N`, `PC` and `remaining`, and nothing else. -/
def afterLoad (s : State) (r : Reg) (v : Byte) (length : Nat) (cycles : Int) : State :=
  { s with
    a := if r = .a then v else s.a
    x := if r = .x then v else s.x
    y := if r = .y then v else s.y
    flags := { s.flags with z := decide (v.toNat = 0), n := decide (128 ≤ v.toNat) }
    pc := s.pc + BitVec.ofNat 16 length
    remaining := s.remaining - cycles }

/-- The state after a store of `v` at `ea` (43_stores.md R140): one cell, `PC` and `remaining`, and nothing else. -/
def afterStore (s : State) (ea : Word) (v : Byte) (length : Nat) (cycles : Int) : State :=
  { s with
    mem := Memory.write s.mem ea.toNat v
    pc := s.pc + BitVec.ofNat 16 length
    remaining := s.remaining - cycles }

/-- A number as an address, modulo 65536 (00_scope.md R6). -/
def address (n : Nat) : Word := BitVec.ofNat 16 n

/-- The number a little-endian word in memory holds, its second byte at the next address modulo 65536 (20_memory.md R33). -/
def wordAt (s : State) (addr : Word) : Nat := 256 * (s.memRead (addr + 1)).toNat + (s.memRead addr).toNat

/-- One cycle more when `base` and `base + index` lie on different pages (70_reset_and_hazards.md R194). -/
def crossing (base : Nat) (index : Byte) : Int := if 256 ≤ base % 256 + index.toNat then 1 else 0

/-- The cycle totals of 70_reset_and_hazards.md R194, opcode fetch included. -/
def cycleTotal (s : State) : Instr → Int
  | .ldaImm _ | .ldxImm _ | .ldyImm _ => 2
  | .ldaZp _ | .ldxZp _ | .ldyZp _ | .staZp _ | .stxZp _ | .styZp _ => 3
  | .ldaZpX _ | .ldyZpX _ | .ldxZpY _ => 4
  | .ldaAbs _ | .ldxAbs _ | .ldyAbs _ | .staAbs _ | .stxAbs _ | .styAbs _ => 4
  | .ldaAbsX base | .ldyAbsX base => 4 + crossing base.toNat s.x
  | .ldaAbsY base | .ldxAbsY base => 4 + crossing base.toNat s.y
  | .ldaIndX _ => 6
  | .ldaIndY zp => 5 + crossing (wordAt s (zext16 zp)) s.y
  | .jsr _ => 6

/-- The register a store stores and the address it stores to, by the meaning's own address (R140 to R146). -/
def storeOf : Instr → Option (Reg × Word)
  | .staZp zp => some (.a, zext16 zp)
  | .staAbs addr => some (.a, addr)
  | .stxZp zp => some (.x, zext16 zp)
  | .stxAbs addr => some (.x, addr)
  | .styZp zp => some (.y, zext16 zp)
  | .styAbs addr => some (.y, addr)
  | .ldaImm _ | .ldaZp _ | .ldaZpX _ | .ldaAbs _ | .ldaAbsX _ | .ldaAbsY _ | .ldaIndX _ | .ldaIndY _ => none
  | .ldxImm _ | .ldxZp _ | .ldxZpY _ | .ldxAbs _ | .ldxAbsY _ => none
  | .ldyImm _ | .ldyZp _ | .ldyZpX _ | .ldyAbs _ | .ldyAbsX _ | .jsr _ => none

/-- The cells an instruction writes: none for a load, one for a store, two at `SP` for JSR (20_memory.md R37). -/
def cellsWritten (s : State) : Instr → List Word
  | .staZp zp | .stxZp zp | .styZp zp => [zext16 zp]
  | .staAbs addr | .stxAbs addr | .styAbs addr => [addr]
  | .jsr _ => [s.sp, s.sp + 1]
  | .ldaImm _ | .ldaZp _ | .ldaZpX _ | .ldaAbs _ | .ldaAbsX _ | .ldaAbsY _ | .ldaIndX _ | .ldaIndY _ => []
  | .ldxImm _ | .ldxZp _ | .ldxZpY _ | .ldxAbs _ | .ldxAbsY _ => []
  | .ldyImm _ | .ldyZp _ | .ldyZpX _ | .ldyAbs _ | .ldyAbsX _ => []

/-- One JSR after another, each executed where the one before it went (44_jsr.md R152). -/
def jsrChain : List Word → State → Result
  | [], s => .next s
  | target :: rest, s =>
    match exec (.jsr target) s with
    | .next t => jsrChain rest t
    | .fault r => .fault r
    | .refused r => .refused r

/-- The return values such JSRs write: the address of the last byte of each (R150, R152). -/
def jsrReturns : Word → List Word → List Word
  | _, [] => []
  | pc, target :: rest => (pc + 2) :: jsrReturns target rest

/-- The opcode bytes of 30_encoding.md R55. -/
def opcodes : List Byte :=
  [0xA9, 0xA5, 0xB5, 0xAD, 0xBD, 0xB9, 0xA1, 0xB1, 0xA2, 0xA6, 0xB6, 0xAE, 0xBE, 0xA0, 0xA4, 0xB4, 0xAC, 0xBC,
   0x85, 0x8D, 0x86, 0x8E, 0x84, 0x8C, 0x20]

end Sys2Proof.Claims

open Sys2Proof Sys2Proof.Machine Sys2Proof.Claims

/-! ### Memory and the primitives -/

/-- 20_memory.md R32. -/
def Obligations.ByteWriteChangesOneCell : Prop :=
  ∀ (s : State) (addr : Word) (v : Byte),
    (s.memWrite addr v).memRead addr = v ∧
    (∀ c : Word, c ≠ addr → (s.memWrite addr v).memRead c = s.memRead c) ∧
    s.memWrite addr v = { s with mem := (s.memWrite addr v).mem }

/-- 20_memory.md R33 to R35; the wrap of the second address is the spec's inference. -/
def Obligations.WordsAreLittleEndian : Prop :=
  ∀ (s : State) (addr v : Word),
    (s.memReadWord addr).toNat = 256 * (s.memRead (addr + 1)).toNat + (s.memRead addr).toNat ∧
    ((s.memWriteWord addr v).memRead addr).toNat = v.toNat % 256 ∧
    ((s.memWriteWord addr v).memRead (addr + 1)).toNat = v.toNat / 256 ∧
    (∀ c : Word, c ≠ addr → c ≠ addr + 1 → (s.memWriteWord addr v).memRead c = s.memRead c) ∧
    (s.memWriteWord addr v).memReadWord addr = v ∧
    s.memWriteWord addr v = { s with mem := (s.memWriteWord addr v).mem }

/-- 40_dispatch_loop.md R71. -/
def Obligations.FetchByteReadsAndAdvances : Prop :=
  ∀ s : State, fetchByte s = (s.memRead s.pc, { s with pc := s.pc + 1, remaining := s.remaining - 1 })

/-- 40_dispatch_loop.md R72; the wrap at `0xFFFF` is the spec's inference. -/
def Obligations.FetchWordReadsLowByteFirst : Prop :=
  ∀ s : State,
    (fetchWord s).1.toNat = 256 * (s.memRead (s.pc + 1)).toNat + (s.memRead s.pc).toNat ∧
    (fetchWord s).2 = { s with pc := s.pc + 2, remaining := s.remaining - 2 } ∧
    (s.pc = 0xFFFF → (fetchWord s).1.toNat = 256 * (s.memRead 0x0000).toNat + (s.memRead 0xFFFF).toNat)

/-- 40_dispatch_loop.md R73, R74, R76. -/
def Obligations.ChargedTransactions : Prop :=
  ∀ (s : State) (addr w : Word),
    readByteC addr s = (s.memRead addr, { s with remaining := s.remaining - 1 }) ∧
    ((readWordC addr s).1.toNat = wordAt s addr ∧ (readWordC addr s).2 = { s with remaining := s.remaining - 2 }) ∧
    writeWordC addr w s =
      { s with
        mem := Memory.write (Memory.write s.mem addr.toNat (BitVec.ofNat 8 w.toNat)) (addr + 1).toNat
          (BitVec.ofNat 8 (w.toNat / 256))
        remaining := s.remaining - 2 }

/-! ### The flag update unit and the modes, each with the instructions that use it -/

/-- 42_loads.md section 1: the update, its four outcomes, and that nothing but a load uses it. That JSR keeps all seven flags, a
part of the last clause, is the spec's choice (92 D12, log entry 10). -/
def Obligations.SetZNUpdatesZeroAndNegative : Prop :=
  (∀ (s : State) (v : Byte),
    s.setZN v = { s with flags := { s.flags with z := decide (v.toNat = 0), n := decide (128 ≤ v.toNat) } } ∧
    (v.toNat = 0 → (s.setZN v).flags.z = true ∧ (s.setZN v).flags.n = false) ∧
    (1 ≤ v.toNat → v.toNat ≤ 0x7F → (s.setZN v).flags.z = false ∧ (s.setZN v).flags.n = false) ∧
    (0x80 ≤ v.toNat → (s.setZN v).flags.z = false ∧ (s.setZN v).flags.n = true) ∧
    ¬((s.setZN v).flags.z = true ∧ (s.setZN v).flags.n = true)) ∧
  ∀ (i : Instr) (s : State), i.form.isLoad = false → ∃ t, exec i s = .next t ∧ t.flags = s.flags

/-- 41_addressing_modes.md R93, with LDA, LDX and LDY Immediate (42_loads.md R113, R121, R126). -/
def Obligations.ImmediateLoads : Prop :=
  ∀ (s : State) (imm : Byte),
    modeImm (fetchByte s).1 s = fetchByte s ∧
    exec (.ldaImm imm) s = .next (afterLoad s .a imm 2 2) ∧
    exec (.ldxImm imm) s = .next (afterLoad s .x imm 2 2) ∧
    exec (.ldyImm imm) s = .next (afterLoad s .y imm 2 2)

/-- 41_addressing_modes.md section 3 (ZeroPage), with the six forms that use it. That a store's write costs the cycle of a load's
read, and so the three cycles of STA, STX and STY, is the spec's choice (92 D20, log entry 15). -/
def Obligations.ZeroPageLoadsAndStores : Prop :=
  ∀ (s : State) (zp : Byte),
    addrZP (fetchByte s).1 s = (address (s.memRead s.pc).toNat, (fetchByte s).2) ∧
    exec (.ldaZp zp) s = .next (afterLoad s .a (s.memRead (address zp.toNat)) 2 3) ∧
    exec (.ldxZp zp) s = .next (afterLoad s .x (s.memRead (address zp.toNat)) 2 3) ∧
    exec (.ldyZp zp) s = .next (afterLoad s .y (s.memRead (address zp.toNat)) 2 3) ∧
    exec (.staZp zp) s = .next (afterStore s (address zp.toNat) s.a 2 3) ∧
    exec (.stxZp zp) s = .next (afterStore s (address zp.toNat) s.x 2 3) ∧
    exec (.styZp zp) s = .next (afterStore s (address zp.toNat) s.y 2 3)

/-- 41_addressing_modes.md R95, with LDA and LDY ZeroPage,X: the sum wraps inside the zero page and there is no penalty. -/
def Obligations.ZeroPageXLoadsWrapInPage : Prop :=
  (∀ (s : State) (zp : Byte),
    addrZPX (fetchByte s).1 s =
      (address (((s.memRead s.pc).toNat + s.x.toNat) % 256), { (fetchByte s).2 with remaining := s.remaining - 2 }) ∧
    exec (.ldaZpX zp) s = .next (afterLoad s .a (s.memRead (address ((zp.toNat + s.x.toNat) % 256))) 2 4) ∧
    exec (.ldyZpX zp) s = .next (afterLoad s .y (s.memRead (address ((zp.toNat + s.x.toNat) % 256))) 2 4)) ∧
  ∀ s : State, s.x = 0xFF → (addrZPX 0x80 s).1 = 0x007F

/-- 41_addressing_modes.md R96, with LDX ZeroPage,Y. -/
def Obligations.ZeroPageYLoadsWrapInPage : Prop :=
  ∀ (s : State) (zp : Byte),
    addrZPY (fetchByte s).1 s =
      (address (((s.memRead s.pc).toNat + s.y.toNat) % 256), { (fetchByte s).2 with remaining := s.remaining - 2 }) ∧
    exec (.ldxZpY zp) s = .next (afterLoad s .x (s.memRead (address ((zp.toNat + s.y.toNat) % 256))) 2 4)

/-- 41_addressing_modes.md section 3 (Absolute), with the six forms that use it. That a store's write costs the cycle of a load's
read, and so the four cycles of STA, STX and STY, is the spec's choice (92 D20, log entry 15). -/
def Obligations.AbsoluteLoadsAndStores : Prop :=
  ∀ (s : State) (addr : Word),
    addrAbs (fetchWord s).1 s = fetchWord s ∧
    exec (.ldaAbs addr) s = .next (afterLoad s .a (s.memRead addr) 3 4) ∧
    exec (.ldxAbs addr) s = .next (afterLoad s .x (s.memRead addr) 3 4) ∧
    exec (.ldyAbs addr) s = .next (afterLoad s .y (s.memRead addr) 3 4) ∧
    exec (.staAbs addr) s = .next (afterStore s addr s.a 3 4) ∧
    exec (.stxAbs addr) s = .next (afterStore s addr s.x 3 4) ∧
    exec (.styAbs addr) s = .next (afterStore s addr s.y 3 4)

/-- 41_addressing_modes.md R98 with R91, LDA and LDY Absolute,X; the wrap modulo 65536 is the spec's inference and the predicate
its choice (92 D9). -/
def Obligations.AbsoluteXLoads : Prop :=
  ∀ (s : State) (base : Word),
    exec (.ldaAbsX base) s =
      .next (afterLoad s .a (s.memRead (address (base.toNat + s.x.toNat))) 3 (4 + crossing base.toNat s.x)) ∧
    exec (.ldyAbsX base) s =
      .next (afterLoad s .y (s.memRead (address (base.toNat + s.x.toNat))) 3 (4 + crossing base.toNat s.x))

/-- 41_addressing_modes.md R99 with R91, LDA and LDX Absolute,Y. -/
def Obligations.AbsoluteYLoads : Prop :=
  ∀ (s : State) (base : Word),
    exec (.ldaAbsY base) s =
      .next (afterLoad s .a (s.memRead (address (base.toNat + s.y.toNat))) 3 (4 + crossing base.toNat s.y)) ∧
    exec (.ldxAbsY base) s =
      .next (afterLoad s .x (s.memRead (address (base.toNat + s.y.toNat))) 3 (4 + crossing base.toNat s.y))

/-- 41_addressing_modes.md R100, LDA (Indirect,X): six cycles always; the pointer's high byte is at the next address, `0x0100`
after `0x00FF` (the spec's choice, 92 D11). -/
def Obligations.IndirectXLoad : Prop :=
  ∀ (s : State) (zp : Byte),
    exec (.ldaIndX zp) s =
      .next (afterLoad s .a (s.memRead (address (wordAt s (address ((zp.toNat + s.x.toNat) % 256))))) 2 6)

/-- 41_addressing_modes.md R101 with R91, LDA (Indirect),Y: the crossing is judged from the pointer word (92 D9, D11). -/
def Obligations.IndirectYLoad : Prop :=
  ∀ (s : State) (zp : Byte),
    exec (.ldaIndY zp) s =
      .next (afterLoad s .a (s.memRead (address (wordAt s (address zp.toNat) + s.y.toNat))) 2
        (5 + crossing (wordAt s (address zp.toNat)) s.y))

/-- 44_jsr.md R150, JSR; that flags and `A`, `X`, `Y` are unchanged is the spec's choice (92 D12). -/
def Obligations.JsrWritesReturnAndJumps : Prop :=
  ∀ (s : State) (target : Word), ∃ t,
    exec (.jsr target) s = .next t ∧
    t = { s with pc := target, sp := s.sp + 1, remaining := s.remaining - 6, mem := t.mem } ∧
    (t.memRead s.sp).toNat = (s.pc + 2).toNat % 256 ∧
    (t.memRead (s.sp + 1)).toNat = (s.pc + 2).toNat / 256 ∧
    ∀ c : Word, c ≠ s.sp → c ≠ s.sp + 1 → t.memRead c = s.memRead c

/-! ### What instructions leave alone, and what they never read -/

/-- 42_loads.md R111: a load writes its register, `Z`, `N`, `PC` and `remaining` and nothing else. -/
def Obligations.LoadsWriteNothingElse : Prop :=
  ∀ (i : Instr) (s : State), i.form.isLoad = true → ∃ t r,
    exec i s = .next t ∧ i.form.register = some r ∧
    t.flags.z = decide ((t.reg r).toNat = 0) ∧ t.flags.n = decide (128 ≤ (t.reg r).toNat) ∧
    (∀ r' : Reg, r' ≠ r → t.reg r' = s.reg r') ∧
    t.sp = s.sp ∧ t.fault = s.fault ∧ (∀ c : Word, t.memRead c = s.memRead c) ∧
    t.flags.c = s.flags.c ∧ t.flags.i = s.flags.i ∧ t.flags.d = s.flags.d ∧ t.flags.b = s.flags.b ∧ t.flags.v = s.flags.v

/-- 43_stores.md section 1: a store writes one cell with its register, `PC` and `remaining`, and nothing else. -/
def Obligations.StoresWriteOneCell : Prop :=
  ∀ (i : Instr) (s : State) (r : Reg) (ea : Word), storeOf i = some (r, ea) → ∃ t,
    exec i s = .next t ∧ t.memRead ea = s.reg r ∧ (∀ c : Word, c ≠ ea → t.memRead c = s.memRead c) ∧
    (∀ r' : Reg, t.reg r' = s.reg r') ∧ t.sp = s.sp ∧ t.flags = s.flags ∧ t.fault = s.fault

/-- 20_memory.md section 5: every cell but those an instruction stores to keeps its byte. -/
def Obligations.InstructionsWriteOnlyTheirCells : Prop :=
  ∀ (i : Instr) (s : State), ∃ t, exec i s = .next t ∧ ∀ c : Word, c ∉ cellsWritten s i → t.memRead c = s.memRead c

/-- 10_state.md section 4: JSR raises `SP` by one and no other instruction touches it. -/
def Obligations.OnlyJsrMovesSP : Prop :=
  ∀ (i : Instr) (s : State), ∃ t, exec i s = .next t ∧ t.sp = if i.form = .jsr then s.sp + 1 else s.sp

/-- 10_state.md section 5: no instruction writes `C`, `I`, `D`, `B` or `V`, and only a load writes `Z` and `N` (JSR by 92 D12). -/
def Obligations.FlagPreservation : Prop :=
  ∀ (i : Instr) (s : State), ∃ t, exec i s = .next t ∧
    t.flags.c = s.flags.c ∧ t.flags.i = s.flags.i ∧ t.flags.d = s.flags.d ∧ t.flags.b = s.flags.b ∧
    t.flags.v = s.flags.v ∧ (i.form.isLoad = false → t.flags.z = s.flags.z ∧ t.flags.n = s.flags.n)

/-- 10_state.md section 3: a load or store leaves `PC` at the opcode's address plus the instruction's length, JSR at its target. -/
def Obligations.ProgramCounterAfterInstruction : Prop :=
  ∀ (i : Instr) (s : State), ∃ t, exec i s = .next t ∧
    (i.form ≠ .jsr → t.pc = s.pc + BitVec.ofNat 16 (encode i).length) ∧ ∀ target, i = .jsr target → t.pc = target

/-- 10_state.md section 5: no instruction reads any flag. -/
def Obligations.FlagsAreNeverRead : Prop :=
  ∀ (i : Instr) (s : State) (f : Flags), ∃ t u,
    exec i s = .next t ∧ exec i { s with flags := f } = .next u ∧ u = { t with flags := u.flags } ∧
    (i.form.isLoad = true → u.flags.z = t.flags.z ∧ u.flags.n = t.flags.n)

/-- 40_dispatch_loop.md section 6: an instruction's behaviour never depends on how much budget is left. -/
def Obligations.BudgetIsNeverRead : Prop :=
  ∀ (i : Instr) (s : State) (budget : Int), ∃ t,
    exec i s = .next t ∧
    exec i { s with remaining := budget } = .next { t with remaining := t.remaining - s.remaining + budget }

/-- 70_reset_and_hazards.md section 6: the cycle totals, between 2 and 6, and one cycle for an unimplemented opcode. Choices:
HIGH_BYTE_CHANGED (92 D9, log entry 7), the cycle of a store's write (92 D20, log entry 15), and that raising charges one cycle,
sets the latch and answers a next state (92 D7, D8, log entry 4). -/
def Obligations.CycleTotals : Prop :=
  (∀ (i : Instr) (s : State), ∃ t,
    exec i s = .next t ∧ s.remaining - t.remaining = cycleTotal s i ∧ 2 ≤ cycleTotal s i ∧ cycleTotal s i ≤ 6) ∧
  ∀ s : State, s.fault = none → 0 < s.remaining → decodeOpcode (s.memRead s.pc) = none →
    ∃ t, step s = .next t ∧ s.remaining - t.remaining = 1 ∧ t.faultLatch = true

/-- 41_addressing_modes.md section 2: the configuration's page-crossing rule changes the cycle count of an instruction and
nothing else. -/
def Obligations.PageCrossRuleChangesOnlyCycles : Prop :=
  ∀ (cfg : Config) (i : Instr) (s : State), ∃ t u,
    execUnder cfg i s = .next t ∧ exec i s = .next u ∧ t = { u with remaining := t.remaining } ∧
    -1 ≤ t.remaining - u.remaining ∧ t.remaining - u.remaining ≤ 1

/-- 70_reset_and_hazards.md section 5: where the two page-crossing rules differ; and 41_addressing_modes.md section 3: an indexed
load costs one cycle more exactly when the configured rule says so. AS_IMPLEMENTED is taken in its modular reading (92 D9, log
entry 7), and a pointer at `0x00FF` has its high byte at `0x0100` (92 D11, log entry 11). -/
def Obligations.PageCrossRulesDifferExactlyHere : Prop :=
  (∀ (base : Word) (index : Byte),
    pageCrossed .highByteChanged base index ≠ pageCrossed .asImplemented base index ↔
      (index.toNat = 0xFF ∧ base.toNat % 256 = 0) ∨ (index.toNat < 0xFF ∧ 256 ≤ base.toNat % 256 + index.toNat)) ∧
  ∀ (rule : PageCrossRule) (base : Word) (s : State),
    execLdaAbsXUnder rule base s =
      .next (afterLoad s .a (s.memRead (address (base.toNat + s.x.toNat))) 3
        (4 + if pageCrossed rule base s.x then 1 else 0)) ∧
    execLdyAbsXUnder rule base s =
      .next (afterLoad s .y (s.memRead (address (base.toNat + s.x.toNat))) 3
        (4 + if pageCrossed rule base s.x then 1 else 0)) ∧
    execLdaAbsYUnder rule base s =
      .next (afterLoad s .a (s.memRead (address (base.toNat + s.y.toNat))) 3
        (4 + if pageCrossed rule base s.y then 1 else 0)) ∧
    execLdxAbsYUnder rule base s =
      .next (afterLoad s .x (s.memRead (address (base.toNat + s.y.toNat))) 3
        (4 + if pageCrossed rule base s.y then 1 else 0)) ∧
    ∀ zp : Byte, execLdaIndYUnder rule zp s =
      .next (afterLoad s .a (s.memRead (address (wordAt s (address zp.toNat) + s.y.toNat))) 2
        (5 + if pageCrossed rule (address (wordAt s (address zp.toNat))) s.y then 1 else 0))

/-- 44_jsr.md section 2, R152: JSRs that follow one another overlap; after `n` of them only the last return value is whole. That
flags and `A`, `X`, `Y` are unchanged is the spec's choice (92 D12, log entry 10). -/
def Obligations.SuccessiveJsrWordsOverlap : Prop :=
  ∀ (targets : List Word) (s : State) (last : Word),
    (jsrReturns s.pc targets).getLast? = some last → s.sp.toNat + targets.length < 65536 → ∃ t,
      jsrChain targets s = .next t ∧ t.sp.toNat = s.sp.toNat + targets.length ∧
      (∀ (k : Nat) (ret : Word), (jsrReturns s.pc targets)[k]? = some ret →
        (t.memRead (address (s.sp.toNat + k))).toNat = ret.toNat % 256) ∧
      (t.memRead (address (s.sp.toNat + targets.length))).toNat = last.toNat / 256 ∧
      (∀ c : Word, c.toNat < s.sp.toNat ∨ s.sp.toNat + targets.length < c.toNat → t.memRead c = s.memRead c) ∧
      t.flags = s.flags ∧ (∀ r : Reg, t.reg r = s.reg r)

/-- 20_memory.md section 8, R43: what a store or JSR writes is what a later fetch of the cell reads. -/
def Obligations.StoresAreSeenByFetch : Prop :=
  (∀ (i : Instr) (s : State) (r : Reg) (ea : Word), storeOf i = some (r, ea) → ∃ t,
    exec i s = .next t ∧ ∀ u : State, u.mem = t.mem → u.pc = ea → (fetchByte u).1 = s.reg r) ∧
  ∀ (target : Word) (s : State), ∃ t, exec (.jsr target) s = .next t ∧ ∀ u : State, u.mem = t.mem → u.pc = s.sp →
    (fetchByte u).1.toNat = (s.pc + 2).toNat % 256 ∧ (fetchByte (fetchByte u).2).1.toNat = (s.pc + 2).toNat / 256

/-! ### Encoding -/

/-- 30_encoding.md sections 1 to 4: under every injective `OPCODE_MAP`, decoding an encoded instruction gives it back, whatever
bytes follow. -/
def Obligations.DecodeOfEncode : Prop :=
  ∀ cfg : Config, cfg.opcodesDistinct = true → ∀ i : Instr, i.wellFormedUnder cfg = true → ∀ rest : List Byte,
    decodeUnder cfg (encodeUnder cfg i ++ rest) = .ok (i, rest)

/-- 30_encoding.md sections 1 to 4: bytes that decode are the encoding of what they decode to, and the block has its form. -/
def Obligations.EncodeOfDecode : Prop :=
  ∀ (cfg : Config) (bytes rest : List Byte) (i : Instr), decodeUnder cfg bytes = .ok (i, rest) →
    bytes = encodeUnder cfg i ++ rest ∧ i.wellFormedUnder cfg = true

/-- 30_encoding.md section 3: what the source fixes of the forms. Whatever `LOAD_MODES` says, a block with distinct opcodes decodes
LDA, LDX and LDY Immediate, the six stores and JSR; in a well-formed block each of the nine modes is the mode of a form it has (any
form, a store's included: the model's choice, log entry 17); and no store is indexed or indirect. -/
def Obligations.FormsNoConfigurationTakesAway : Prop :=
  (∀ cfg : Config, cfg.opcodesDistinct = true → ∀ (v : Byte) (w : Word) (rest : List Byte),
    (∀ i ∈ [Instr.ldaImm v, .ldxImm v, .ldyImm v, .staZp v, .stxZp v, .styZp v],
      decodeUnder cfg (cfg.opcodeMap i.form :: v :: rest) = .ok (i, rest)) ∧
    ∀ i ∈ [Instr.staAbs w, .stxAbs w, .styAbs w, .jsr w],
      decodeUnder cfg (cfg.opcodeMap i.form :: BitVec.ofNat 8 w.toNat :: BitVec.ofNat 8 (w.toNat / 256) :: rest) =
        .ok (i, rest)) ∧
  (∀ cfg : Config, cfg.wellFormed = true → ∀ m : Mode, m ≠ .target →
    ∃ i : Instr, i.form.mode = m ∧ i.wellFormedUnder cfg = true) ∧
  ∀ i : Instr, i.form.isStore = true → i.form.mode = .zeroPage ∨ i.form.mode = .absolute

/-- 30_encoding.md sections 4 and 5 (the byte values are from outside the source, log entry 5): exactly 25 bytes are opcodes,
each of one form, and `0x00` is none. -/
def Obligations.ExactlyTheTableOpcodesDecode : Prop :=
  (∀ op : Byte, (decodeOpcode op).isSome = true ↔ op ∈ opcodes) ∧ opcodes.Nodup ∧ (0x00 : Byte) ∉ opcodes ∧
  Form.all.map Config.default.opcodeMap = opcodes

/-- 30_encoding.md section 7: the example words of the syntax table, and one of each store (log entry 5). -/
def Obligations.ExampleWordsDecode : Prop :=
  decode [0xA9, 0x84] = .ok (.ldaImm 0x84, []) ∧
  decode [0xA6, 0x10] = .ok (.ldxZp 0x10, []) ∧
  decode [0xB4, 0x80] = .ok (.ldyZpX 0x80, []) ∧
  decode [0xB6, 0x80] = .ok (.ldxZpY 0x80, []) ∧
  decode [0x8D, 0x00, 0x03] = .ok (.staAbs 0x0300, []) ∧
  decode [0xBD, 0x02, 0x44] = .ok (.ldaAbsX 0x4402, []) ∧
  decode [0xB9, 0x80, 0x44] = .ok (.ldaAbsY 0x4480, []) ∧
  decode [0xA1, 0x20] = .ok (.ldaIndX 0x20, []) ∧
  decode [0xB1, 0x86] = .ok (.ldaIndY 0x86, []) ∧
  decode [0x20, 0x42, 0x42] = .ok (.jsr 0x4242, []) ∧
  decode [0x86, 0x20] = .ok (.stxZp 0x20, []) ∧
  decode [0x8C, 0xFF, 0xFF] = .ok (.styAbs 0xFFFF, []) ∧
  decode [0xEA] = .error (.unimplementedOpcode 0xEA)

/-! ### The step -/

/-- 40_dispatch_loop.md section 3: with no fault latched and budget left, a step is the instruction at `PC`. -/
def Obligations.StepRunsTheDecodedInstruction : Prop :=
  ∀ (s : State) (i : Instr) (rest : List Byte), s.fault = none → 0 < s.remaining →
    decode [s.memRead s.pc, s.memRead (s.pc + 1), s.memRead (s.pc + 2)] = .ok (i, rest) → step s = exec i s

/-- 60_exceptions.md sections 1 and 2 (record and residual state are the spec's choices, 92 D7, D18; that the answer is a next
state is the model's, log entry 4): what raising UnimplementedOpcode does. -/
def Obligations.UnimplementedOpcodeEntry : Prop :=
  ∀ s : State, s.fault = none → 0 < s.remaining → decodeOpcode (s.memRead s.pc) = none →
    step s = .next { s with
      pc := s.pc + 1, remaining := s.remaining - 1, fault := some { op := s.memRead s.pc, address := s.pc } }

/-- 60_exceptions.md section 2: an unimplemented opcode is never skipped: the block never executes past it. That the raise is a
next state and every later step a fault with the record of opcode and address is the model's form of the spec's choices (92 D7,
D8, D18, log entry 4). -/
def Obligations.UnimplementedOpcodeIsNeverSkipped : Prop :=
  ∀ (s : State) (more : Nat), s.fault = none → 0 < s.remaining → decodeOpcode (s.memRead s.pc) = none →
    Host.Core.run core (more + 2) s =
      .fault (Fault.unimplementedOpcode { op := s.memRead s.pc, address := s.pc })

/-- 40_dispatch_loop.md section 5 (the latch is the spec's choice, 92 D8): with the latch set a step executes nothing and reports
the fault. -/
def Obligations.LatchedStepReportsTheFault : Prop :=
  ∀ (s : State) (r : FaultRecord), s.fault = some r → step s = .fault (.unimplementedOpcode r)

/-- 40_dispatch_loop.md section 4 and 60_exceptions.md section 8: without budget the block is idle (log entry 14). -/
def Obligations.IdleStepKeepsTheState : Prop :=
  ∀ s : State, s.fault = none → s.remaining ≤ 0 → step s = .next s

/-- 60_exceptions.md section 4: nothing else faults. No instruction sets or clears the latch, no step is refused, a step faults
only when the latch is set, and a step sets the latch only at an opcode byte that is not implemented. That the raise is a next
state and a latched step faults (92 D8, log entry 4), and that a step without budget is idle (log entry 14), are the model's
form. -/
def Obligations.NothingElseFaults : Prop :=
  (∀ (i : Instr) (s : State), ∃ t, exec i s = .next t ∧ t.fault = s.fault) ∧
  ∀ s : State,
    (s.faultLatch = true ∧ ∃ r, step s = .fault r) ∨
    (s.faultLatch = false ∧ ∃ t, step s = .next t ∧
      (t.faultLatch = true → decodeOpcode (s.memRead s.pc) = none ∧ 0 < s.remaining))

/-- The invariant `State.inv` (canonical memory; 10_state.md sections 7 and 9; 60_exceptions.md sections 1 and 2) holds at reset
(the reset values of `PC`, `SP` and `remaining` are choices, log entries 1 to 3). -/
def Obligations.ResetMeetsTheInvariant : Prop := State.reset.inv = true

/-- Every step keeps the invariant `State.inv` (10_state.md sections 7 and 9). Its clause on a latched record and `PC` is about the
residual state and the record, the spec's choices (92 D7, D18, log entry 4). -/
def Obligations.StepKeepsTheInvariant : Prop :=
  ∀ s t : State, s.inv = true → step s = .next t → t.inv = true

/-! ### Execute -/

/-- 40_dispatch_loop.md section 4 (the bounds are the spec's inference): a result is never below the request and exceeds it by at
most 5. -/
def Obligations.ExecuteResultBounds : Prop :=
  ∀ (c used : Int) (s t : State), 1 ≤ c → execute c s = .returned used t → c ≤ used ∧ used ≤ c + 5

/-- 40_dispatch_loop.md section 4, R81: a budget of zero or less fetches nothing and changes nothing but the dead counter (log
entry 3). -/
def Obligations.ExecuteWithoutBudget : Prop :=
  ∀ (c : Int) (s : State), c ≤ 0 → s.fault = none → execute c s = .returned 0 { s with remaining := 0 }

/-- 40_dispatch_loop.md section 5, R85 (the spec's choice, 92 D8): with the latch set, `Execute` changes nothing and reports the
fault again, whatever the budget. -/
def Obligations.ExecuteWhileLatched : Prop :=
  ∀ (c : Int) (s : State) (r : FaultRecord), s.fault = some r → execute c s = .raised r s

/-- 60_exceptions.md sections 1 and 2: an `Execute` that meets an unimplemented opcode first ends without a result. The state left
(latch, record, `PC`, and `remaining = c - 1`) is the spec's choice and the model's (92 D7, D8, D18, log entries 3 and 4). -/
def Obligations.ExecuteRaisesOnUnimplementedOpcode : Prop :=
  ∀ (c : Int) (s : State), 0 < c → s.fault = none → decodeOpcode (s.memRead s.pc) = none →
    execute c s = .raised { op := s.memRead s.pc, address := s.pc }
      { s with pc := s.pc + 1, remaining := c - 1, fault := some { op := s.memRead s.pc, address := s.pc } }

/-- 40_dispatch_loop.md section 4, R83 (c), the spec's inference: `Execute(c)` is the instruction at `PC` and then
`Execute(c - cost)`. The dead counter is 0 in the states in between (log entry 3). -/
def Obligations.ExecuteRecursion : Prop :=
  ∀ (c : Int) (s t : State), 0 < c → nextInstruction s = some t →
    execute c s =
      match execute (c - cost s) t with
      | .returned used u => .returned (cost s + used) u
      | .raised r u => .raised r u

/-- 60_exceptions.md section 8 and 70_reset_and_hazards.md section 5: `Execute(1)` runs exactly one instruction. The
returned state's dead counter is 0 (log entry 3). -/
def Obligations.ExecuteOneRunsOneInstruction : Prop :=
  ∀ (s : State) (i : Instr), s.fault = none → instrAt s = .ok i → ∃ t,
    exec i { s with remaining := 1 } = .next t ∧ execute 1 s = .returned (1 - t.remaining) { t with remaining := 0 }

/-- 40_dispatch_loop.md section 4, R82 and R83 (b), the spec's inference: `Execute(c)` runs a whole number of the program's
instructions, at most half of `c` rounded up. The dead counter is 0 in the states compared (log entry 3). -/
def Obligations.ExecuteIsAPrefixOfTheProgram : Prop :=
  ∀ (c used : Int) (s t : State), execute c s = .returned used t →
    ∃ n : Nat, afterInstructions n s = some t ∧ (2 * n : Int) ≤ max c 0 + 1

/-- 40_dispatch_loop.md section 4, R82 and R83 (d), the spec's inference: a smaller budget stops earlier in the same sequence of
instructions. The dead counter is 0 in the states compared (log entry 3). -/
def Obligations.SmallerBudgetStopsEarlier : Prop :=
  ∀ (c d used : Int) (s t : State), d ≤ c → execute c s = .returned used t →
    ∃ (used' : Int) (u : State) (n k : Nat),
      execute d s = .returned used' u ∧ used' ≤ used ∧ afterInstructions n s = some u ∧ afterInstructions k u = some t

/-! ### Reset and the host -/

/-- 10_state.md section 9: what `Reset()` leaves, for every configuration; with the default one `PC = 0xFFFC` and `SP = 0x0100` are
the model's choices (log entries 1 and 2), and `remaining = 0` is (log entry 3). -/
def Obligations.ResetLeaves : Prop :=
  (∀ (cfg : Config) (addr : Word),
    (State.resetUnder cfg).pc = cfg.resetPC ∧ (State.resetUnder cfg).sp = cfg.resetSP ∧
    (State.resetUnder cfg).a = 0 ∧ (State.resetUnder cfg).x = 0 ∧ (State.resetUnder cfg).y = 0 ∧
    (∀ f : FlagName, (State.resetUnder cfg).flags.get f = false) ∧
    (State.resetUnder cfg).memRead addr = 0 ∧ (State.resetUnder cfg).faultLatch = false) ∧
  State.reset = State.resetUnder Config.default ∧
  State.reset.pc = 0xFFFC ∧ State.reset.sp = 0x0100 ∧ State.reset.remaining = 0

/-- 70_reset_and_hazards.md section 1: `Reset()` gives the same state whatever was there, a latched fault and a program in memory
included, and before the first reset too. -/
def Obligations.ResetAlwaysGivesTheSameState : Prop :=
  ∀ (cfg : Config) (b : Block), hostOp cfg .reset b = .next (.ready (State.resetUnder cfg), .done)

/-- 70_reset_and_hazards.md R186: the host's memory operations change exactly the cells they name. -/
def Obligations.HostMemoryOperations : Prop :=
  ∀ (cfg : Config) (s : State) (addr w : Word) (v : Byte),
    hostOp cfg (.readByte addr) (.ready s) = .next (.ready s, .byte (s.memRead addr)) ∧
    hostOp cfg (.readWord addr) (.ready s) = .next (.ready s, .word (address (wordAt s addr))) ∧
    (∃ t, hostOp cfg (.writeByte addr v) (.ready s) = .next (.ready t, .done) ∧ t = { s with mem := t.mem } ∧
      t.memRead addr = v ∧ ∀ c : Word, c ≠ addr → t.memRead c = s.memRead c) ∧
    (∃ t, hostOp cfg (.writeWord w addr) (.ready s) = .next (.ready t, .done) ∧ t = { s with mem := t.mem } ∧
      wordAt t addr = w.toNat ∧ ∀ c : Word, c ≠ addr → c ≠ addr + 1 → t.memRead c = s.memRead c) ∧
    ∃ t, hostOp cfg .initialise (.ready s) = .next (.ready t, .done) ∧ t = { s with mem := t.mem } ∧
      ∀ c : Word, t.memRead c = 0

/-- 10_state.md section 8: the host reads back the registers and flags it writes, and a write changes nothing else. -/
def Obligations.HostRegisterAccess : Prop :=
  ∀ (cfg : Config) (s : State) (w : Word) (v : Byte) (r : Reg) (f : FlagName) (bit : Bool),
    hostOp cfg (.writePC w) (.ready s) = .next (.ready { s with pc := w }, .done) ∧
    hostOp cfg (.writeSP w) (.ready s) = .next (.ready { s with sp := w }, .done) ∧
    hostOp cfg .readPC (.ready s) = .next (.ready s, .word s.pc) ∧
    hostOp cfg .readSP (.ready s) = .next (.ready s, .word s.sp) ∧
    hostOp cfg (.readReg r) (.ready s) = .next (.ready s, .byte (s.reg r)) ∧
    (∃ t, hostOp cfg (.writeReg r v) (.ready s) = .next (.ready t, .done) ∧ t = { s with a := t.a, x := t.x, y := t.y } ∧
      t.reg r = v ∧ ∀ r' : Reg, r' ≠ r → t.reg r' = s.reg r') ∧
    hostOp cfg (.readFlag f) (.ready s) = .next (.ready s, .flag (s.flags.get f)) ∧
    ∃ t, hostOp cfg (.writeFlag f bit) (.ready s) = .next (.ready t, .done) ∧ t = { s with flags := t.flags } ∧
      t.flags.get f = bit ∧ ∀ g : FlagName, g ≠ f → t.flags.get g = s.flags.get g

/-- 70_reset_and_hazards.md section 3: the host's `Execute` operation answers what `Execute` does, and nothing is lost between
calls. -/
def Obligations.HostExecute : Prop :=
  ∀ (c : Int) (s : State),
    (∀ (used : Int) (t : State), execute c s = .returned used t →
      hostOp Config.default (.execute c) (.ready s) = .next (.ready t, .cyclesUsed used)) ∧
    (∀ (r : FaultRecord) (t : State), execute c s = .raised r t →
      hostOp Config.default (.execute c) (.ready s) = .next (.ready t, .unimplementedOpcode r))

/-- 10_state.md section 9 (the spec's choice, 92 D22): before the first `Reset()` an `Execute` or a read has no meaning. -/
def Obligations.NothingHasAValueBeforeReset : Prop :=
  ∀ (cfg : Config) (c : Int) (addr : Word) (r : Reg) (f : FlagName),
    hostOp cfg (.execute c) .beforeReset = .refused .beforeFirstReset ∧
    hostOp cfg (.readByte addr) .beforeReset = .refused .beforeFirstReset ∧
    hostOp cfg (.readWord addr) .beforeReset = .refused .beforeFirstReset ∧
    hostOp cfg .readPC .beforeReset = .refused .beforeFirstReset ∧
    hostOp cfg .readSP .beforeReset = .refused .beforeFirstReset ∧
    hostOp cfg (.readReg r) .beforeReset = .refused .beforeFirstReset ∧
    hostOp cfg (.readFlag f) .beforeReset = .refused .beforeFirstReset
end

