-- ==== Sys2Proof/Laws/Memory.lean ====
section
/-! SUPPORT. The laws of memory as a list of cells: what a read after a write gives, and that a write keeps the canonical form. -/

namespace Sys2Proof.Machine

theorem Memory.read_insert (m : Memory) (a c : Nat) (v : Byte) :
    Memory.read (Memory.insert m a v) c = if c = a then v else Memory.read m c := by
  induction m with
  | nil => simp only [Memory.insert, Memory.read, @eq_comm _ a c]
  | cons cell m ih =>
    obtain ⟨k, b⟩ := cell
    simp only [Memory.insert]
    split
    · simp only [Memory.read, @eq_comm _ a c]
    · split
      · next h => subst h; simp only [Memory.read, @eq_comm _ a c]; split <;> simp_all
      · simp only [Memory.read, ih]; split <;> split <;> simp_all

theorem Memory.read_erase (m : Memory) (a c : Nat) :
    Memory.read (Memory.erase m a) c = if c = a then Memory.unlisted else Memory.read m c := by
  unfold Memory.erase
  induction m with
  | nil => simp [Memory.read]
  | cons cell m ih =>
    obtain ⟨k, b⟩ := cell
    simp only [List.filter_cons, Memory.read]
    by_cases hk : k = a
    · subst hk
      simp only [bne_self_eq_false, Bool.false_eq_true, if_false, ih]
      split <;> simp_all [eq_comm]
    · simp only [bne_iff_ne, ne_eq, hk, not_false_eq_true, if_true, Memory.read, ih]
      split <;> split <;> simp_all

/-- What a write does to every cell (20_memory.md R32). -/
theorem Memory.read_write (m : Memory) (a c : Nat) (v : Byte) :
    Memory.read (Memory.write m a v) c = if c = a then v else Memory.read m c := by
  unfold Memory.write
  split
  · next h => rw [Memory.read_erase, h]
  · exact Memory.read_insert m a c v

theorem Memory.wfFrom_mono {m : Memory} {lo hi : Nat} (h : lo ≤ hi) (hm : Memory.wfFrom hi m = true) :
    Memory.wfFrom lo m = true := by
  cases m with
  | nil => rfl
  | cons cell m =>
    simp only [Memory.wfFrom, Bool.and_eq_true, decide_eq_true_eq] at hm ⊢
    exact ⟨⟨⟨by omega, hm.1.1.2⟩, hm.1.2⟩, hm.2⟩

theorem Memory.wfFrom_erase {m : Memory} {lo : Nat} (a : Nat) (hm : Memory.wfFrom lo m = true) :
    Memory.wfFrom lo (Memory.erase m a) = true := by
  unfold Memory.erase
  induction m generalizing lo with
  | nil => rfl
  | cons cell m ih =>
    obtain ⟨k, b⟩ := cell
    simp only [Memory.wfFrom, Bool.and_eq_true, decide_eq_true_eq] at hm
    simp only [List.filter_cons]
    split
    · simp only [Memory.wfFrom, Bool.and_eq_true, decide_eq_true_eq]
      exact ⟨hm.1, ih hm.2⟩
    · exact ih (Memory.wfFrom_mono (by omega) hm.2)

theorem Memory.wfFrom_insert {m : Memory} {lo a : Nat} {v : Byte} (hlo : lo ≤ a) (ha : a < 65536)
    (hv : v ≠ Memory.unlisted) (hm : Memory.wfFrom lo m = true) : Memory.wfFrom lo (Memory.insert m a v) = true := by
  induction m generalizing lo with
  | nil => simp [Memory.insert, Memory.wfFrom, hlo, ha, hv]
  | cons cell m ih =>
    obtain ⟨k, b⟩ := cell
    simp only [Memory.wfFrom, Bool.and_eq_true, decide_eq_true_eq] at hm
    simp only [Memory.insert]
    split
    · simp only [Memory.wfFrom, Bool.and_eq_true, decide_eq_true_eq, bne_iff_ne, ne_eq]
      exact ⟨⟨⟨hlo, ha⟩, hv⟩, ⟨⟨by omega, hm.1.1.2⟩, by simpa using hm.1.2⟩, hm.2⟩
    · split
      · next h =>
        subst h
        simp only [Memory.wfFrom, Bool.and_eq_true, decide_eq_true_eq, bne_iff_ne, ne_eq]
        exact ⟨⟨⟨hlo, ha⟩, hv⟩, hm.2⟩
      · simp only [Memory.wfFrom, Bool.and_eq_true, decide_eq_true_eq]
        exact ⟨hm.1, ih (by omega) hm.2⟩

/-- A write to a 16-bit address keeps the canonical form. -/
theorem Memory.wf_write {m : Memory} {a : Nat} (v : Byte) (ha : a < 65536) (hm : Memory.wf m = true) :
    Memory.wf (Memory.write m a v) = true := by
  unfold Memory.wf Memory.write at *
  split
  · exact Memory.wfFrom_erase a hm
  · next h => exact Memory.wfFrom_insert (Nat.zero_le a) ha h hm

/-- `MemWrite(addr, 1, v)` keeps the canonical form. -/
theorem State.wf_memWrite {s : State} (addr : Word) (v : Byte) (h : Memory.wf s.mem = true) :
    Memory.wf (s.memWrite addr v).mem = true :=
  Memory.wf_write v addr.isLt h

/-- `MemWrite(addr, 2, v)` keeps the canonical form. -/
theorem State.wf_memWriteWord {s : State} (addr v : Word) (h : Memory.wf s.mem = true) :
    Memory.wf (s.memWriteWord addr v).mem = true :=
  State.wf_memWrite _ _ (State.wf_memWrite _ _ h)

/-- Every cell after a byte write (20_memory.md R32). -/
theorem State.memRead_memWrite (s : State) (addr c : Word) (v : Byte) :
    (s.memWrite addr v).memRead c = if c = addr then v else s.memRead c := by
  simp only [State.memRead, State.memWrite, Memory.read_write, ← BitVec.toNat_inj]

/-- Every cell after a word write (20_memory.md R34). -/
theorem State.memRead_memWriteWord (s : State) (addr c v : Word) :
    (s.memWriteWord addr v).memRead c =
      if c = addr + 1 then highByte v else if c = addr then lowByte v else s.memRead c := by
  simp only [State.memWriteWord, State.memRead_memWrite]

end Sys2Proof.Machine
end

