-- ==== Sys2Proof/Laws/State.lean ====
section
/-! SUPPORT. What each update of the state does to each of its fields. -/

namespace Sys2Proof.Machine

/-! ### `State.setPC` -/

@[simp] theorem State.setPC_pc (s : State) (v : Word) : (s.setPC v).pc = v := rfl
@[simp] theorem State.setPC_sp (s : State) (v : Word) : (s.setPC v).sp = s.sp := rfl
@[simp] theorem State.setPC_a (s : State) (v : Word) : (s.setPC v).a = s.a := rfl
@[simp] theorem State.setPC_x (s : State) (v : Word) : (s.setPC v).x = s.x := rfl
@[simp] theorem State.setPC_y (s : State) (v : Word) : (s.setPC v).y = s.y := rfl
@[simp] theorem State.setPC_flags (s : State) (v : Word) : (s.setPC v).flags = s.flags := rfl
@[simp] theorem State.setPC_remaining (s : State) (v : Word) : (s.setPC v).remaining = s.remaining := rfl
@[simp] theorem State.setPC_fault (s : State) (v : Word) : (s.setPC v).fault = s.fault := rfl
@[simp] theorem State.setPC_mem (s : State) (v : Word) : (s.setPC v).mem = s.mem := rfl

/-! ### `State.setSP` -/

@[simp] theorem State.setSP_pc (s : State) (v : Word) : (s.setSP v).pc = s.pc := rfl
@[simp] theorem State.setSP_sp (s : State) (v : Word) : (s.setSP v).sp = v := rfl
@[simp] theorem State.setSP_a (s : State) (v : Word) : (s.setSP v).a = s.a := rfl
@[simp] theorem State.setSP_x (s : State) (v : Word) : (s.setSP v).x = s.x := rfl
@[simp] theorem State.setSP_y (s : State) (v : Word) : (s.setSP v).y = s.y := rfl
@[simp] theorem State.setSP_flags (s : State) (v : Word) : (s.setSP v).flags = s.flags := rfl
@[simp] theorem State.setSP_remaining (s : State) (v : Word) : (s.setSP v).remaining = s.remaining := rfl
@[simp] theorem State.setSP_fault (s : State) (v : Word) : (s.setSP v).fault = s.fault := rfl
@[simp] theorem State.setSP_mem (s : State) (v : Word) : (s.setSP v).mem = s.mem := rfl

/-! ### `State.charge` -/

@[simp] theorem State.charge_pc (s : State) (k : Int) : (s.charge k).pc = s.pc := rfl
@[simp] theorem State.charge_sp (s : State) (k : Int) : (s.charge k).sp = s.sp := rfl
@[simp] theorem State.charge_a (s : State) (k : Int) : (s.charge k).a = s.a := rfl
@[simp] theorem State.charge_x (s : State) (k : Int) : (s.charge k).x = s.x := rfl
@[simp] theorem State.charge_y (s : State) (k : Int) : (s.charge k).y = s.y := rfl
@[simp] theorem State.charge_flags (s : State) (k : Int) : (s.charge k).flags = s.flags := rfl
@[simp] theorem State.charge_remaining (s : State) (k : Int) : (s.charge k).remaining = s.remaining - k := rfl
@[simp] theorem State.charge_fault (s : State) (k : Int) : (s.charge k).fault = s.fault := rfl
@[simp] theorem State.charge_mem (s : State) (k : Int) : (s.charge k).mem = s.mem := rfl

/-! ### `State.fetched` -/

@[simp] theorem State.fetched_pc (s : State) : (s.fetched).pc = s.pc + 1 := rfl
@[simp] theorem State.fetched_sp (s : State) : (s.fetched).sp = s.sp := rfl
@[simp] theorem State.fetched_a (s : State) : (s.fetched).a = s.a := rfl
@[simp] theorem State.fetched_x (s : State) : (s.fetched).x = s.x := rfl
@[simp] theorem State.fetched_y (s : State) : (s.fetched).y = s.y := rfl
@[simp] theorem State.fetched_flags (s : State) : (s.fetched).flags = s.flags := rfl
@[simp] theorem State.fetched_remaining (s : State) : (s.fetched).remaining = s.remaining - 1 := rfl
@[simp] theorem State.fetched_fault (s : State) : (s.fetched).fault = s.fault := rfl
@[simp] theorem State.fetched_mem (s : State) : (s.fetched).mem = s.mem := rfl

/-! ### `State.memWrite` -/

@[simp] theorem State.memWrite_pc (s : State) (addr : Word) (v : Byte) : (s.memWrite addr v).pc = s.pc := rfl
@[simp] theorem State.memWrite_sp (s : State) (addr : Word) (v : Byte) : (s.memWrite addr v).sp = s.sp := rfl
@[simp] theorem State.memWrite_a (s : State) (addr : Word) (v : Byte) : (s.memWrite addr v).a = s.a := rfl
@[simp] theorem State.memWrite_x (s : State) (addr : Word) (v : Byte) : (s.memWrite addr v).x = s.x := rfl
@[simp] theorem State.memWrite_y (s : State) (addr : Word) (v : Byte) : (s.memWrite addr v).y = s.y := rfl
@[simp] theorem State.memWrite_flags (s : State) (addr : Word) (v : Byte) : (s.memWrite addr v).flags = s.flags := rfl
@[simp] theorem State.memWrite_remaining (s : State) (addr : Word) (v : Byte) : (s.memWrite addr v).remaining = s.remaining := rfl
@[simp] theorem State.memWrite_fault (s : State) (addr : Word) (v : Byte) : (s.memWrite addr v).fault = s.fault := rfl
@[simp] theorem State.memWrite_mem (s : State) (addr : Word) (v : Byte) : (s.memWrite addr v).mem = Memory.write s.mem addr.toNat v := rfl

/-! ### `State.setZN` -/

@[simp] theorem State.setZN_pc (s : State) (v : Byte) : (s.setZN v).pc = s.pc := rfl
@[simp] theorem State.setZN_sp (s : State) (v : Byte) : (s.setZN v).sp = s.sp := rfl
@[simp] theorem State.setZN_a (s : State) (v : Byte) : (s.setZN v).a = s.a := rfl
@[simp] theorem State.setZN_x (s : State) (v : Byte) : (s.setZN v).x = s.x := rfl
@[simp] theorem State.setZN_y (s : State) (v : Byte) : (s.setZN v).y = s.y := rfl
@[simp] theorem State.setZN_flags (s : State) (v : Byte) : (s.setZN v).flags = Flags.updateZN s.flags v := rfl
@[simp] theorem State.setZN_remaining (s : State) (v : Byte) : (s.setZN v).remaining = s.remaining := rfl
@[simp] theorem State.setZN_fault (s : State) (v : Byte) : (s.setZN v).fault = s.fault := rfl
@[simp] theorem State.setZN_mem (s : State) (v : Byte) : (s.setZN v).mem = s.mem := rfl

/-! ### `State.memWriteWord` -/

@[simp] theorem State.memWriteWord_pc (s : State) (addr : Word) (v : Word) : (s.memWriteWord addr v).pc = s.pc := rfl
@[simp] theorem State.memWriteWord_sp (s : State) (addr : Word) (v : Word) : (s.memWriteWord addr v).sp = s.sp := rfl
@[simp] theorem State.memWriteWord_a (s : State) (addr : Word) (v : Word) : (s.memWriteWord addr v).a = s.a := rfl
@[simp] theorem State.memWriteWord_x (s : State) (addr : Word) (v : Word) : (s.memWriteWord addr v).x = s.x := rfl
@[simp] theorem State.memWriteWord_y (s : State) (addr : Word) (v : Word) : (s.memWriteWord addr v).y = s.y := rfl
@[simp] theorem State.memWriteWord_flags (s : State) (addr : Word) (v : Word) : (s.memWriteWord addr v).flags = s.flags := rfl
@[simp] theorem State.memWriteWord_remaining (s : State) (addr : Word) (v : Word) : (s.memWriteWord addr v).remaining = s.remaining := rfl
@[simp] theorem State.memWriteWord_fault (s : State) (addr : Word) (v : Word) : (s.memWriteWord addr v).fault = s.fault := rfl
@[simp] theorem State.memWriteWord_mem (s : State) (addr : Word) (v : Word) : (s.memWriteWord addr v).mem = Memory.write (Memory.write s.mem addr.toNat (lowByte v)) (addr + 1).toNat (highByte v) := rfl

/-! ### `State.setReg` -/

@[simp] theorem State.setReg_a_a (s : State) (v : Byte) : (s.setReg .a v).a = v := rfl
@[simp] theorem State.setReg_a_x (s : State) (v : Byte) : (s.setReg .a v).x = s.x := rfl
@[simp] theorem State.setReg_a_y (s : State) (v : Byte) : (s.setReg .a v).y = s.y := rfl
@[simp] theorem State.setReg_x_a (s : State) (v : Byte) : (s.setReg .x v).a = s.a := rfl
@[simp] theorem State.setReg_x_x (s : State) (v : Byte) : (s.setReg .x v).x = v := rfl
@[simp] theorem State.setReg_x_y (s : State) (v : Byte) : (s.setReg .x v).y = s.y := rfl
@[simp] theorem State.setReg_y_a (s : State) (v : Byte) : (s.setReg .y v).a = s.a := rfl
@[simp] theorem State.setReg_y_x (s : State) (v : Byte) : (s.setReg .y v).x = s.x := rfl
@[simp] theorem State.setReg_y_y (s : State) (v : Byte) : (s.setReg .y v).y = v := rfl
@[simp] theorem State.setReg_pc (s : State) (r : Reg) (v : Byte) : (s.setReg r v).pc = s.pc := by cases r <;> rfl
@[simp] theorem State.setReg_sp (s : State) (r : Reg) (v : Byte) : (s.setReg r v).sp = s.sp := by cases r <;> rfl
@[simp] theorem State.setReg_flags (s : State) (r : Reg) (v : Byte) : (s.setReg r v).flags = s.flags := by cases r <;> rfl
@[simp] theorem State.setReg_remaining (s : State) (r : Reg) (v : Byte) : (s.setReg r v).remaining = s.remaining := by cases r <;> rfl
@[simp] theorem State.setReg_fault (s : State) (r : Reg) (v : Byte) : (s.setReg r v).fault = s.fault := by cases r <;> rfl
@[simp] theorem State.setReg_mem (s : State) (r : Reg) (v : Byte) : (s.setReg r v).mem = s.mem := by cases r <;> rfl

/-! ### `raiseUnimplementedOpcode` -/

@[simp] theorem raiseUnimplementedOpcode_pc (op : Byte) (address : Word) (s : State) :
    (raiseUnimplementedOpcode op address s).pc = s.pc := rfl
@[simp] theorem raiseUnimplementedOpcode_sp (op : Byte) (address : Word) (s : State) :
    (raiseUnimplementedOpcode op address s).sp = s.sp := rfl
@[simp] theorem raiseUnimplementedOpcode_a (op : Byte) (address : Word) (s : State) :
    (raiseUnimplementedOpcode op address s).a = s.a := rfl
@[simp] theorem raiseUnimplementedOpcode_x (op : Byte) (address : Word) (s : State) :
    (raiseUnimplementedOpcode op address s).x = s.x := rfl
@[simp] theorem raiseUnimplementedOpcode_y (op : Byte) (address : Word) (s : State) :
    (raiseUnimplementedOpcode op address s).y = s.y := rfl
@[simp] theorem raiseUnimplementedOpcode_flags (op : Byte) (address : Word) (s : State) :
    (raiseUnimplementedOpcode op address s).flags = s.flags := rfl
@[simp] theorem raiseUnimplementedOpcode_remaining (op : Byte) (address : Word) (s : State) :
    (raiseUnimplementedOpcode op address s).remaining = s.remaining := rfl
@[simp] theorem raiseUnimplementedOpcode_fault (op : Byte) (address : Word) (s : State) :
    (raiseUnimplementedOpcode op address s).fault = some { op := op, address := address } := rfl
@[simp] theorem raiseUnimplementedOpcode_mem (op : Byte) (address : Word) (s : State) :
    (raiseUnimplementedOpcode op address s).mem = s.mem := rfl

/-! ### The flags after a load -/

@[simp] theorem Flags.updateZN_c (f : Flags) (v : Byte) : (Flags.updateZN f v).c = f.c := rfl
@[simp] theorem Flags.updateZN_z (f : Flags) (v : Byte) : (Flags.updateZN f v).z = (v == 0) := rfl
@[simp] theorem Flags.updateZN_i (f : Flags) (v : Byte) : (Flags.updateZN f v).i = f.i := rfl
@[simp] theorem Flags.updateZN_d (f : Flags) (v : Byte) : (Flags.updateZN f v).d = f.d := rfl
@[simp] theorem Flags.updateZN_b (f : Flags) (v : Byte) : (Flags.updateZN f v).b = f.b := rfl
@[simp] theorem Flags.updateZN_v (f : Flags) (v : Byte) : (Flags.updateZN f v).v = f.v := rfl
@[simp] theorem Flags.updateZN_n (f : Flags) (v : Byte) : (Flags.updateZN f v).n = v.getLsbD 7 := rfl

/-! ### Reading a cell sees only the memory field -/

@[simp] theorem State.setPC_memRead (s : State) (v : Word) (addr : Word) : (s.setPC v).memRead addr = s.memRead addr := rfl
@[simp] theorem State.setPC_memReadWord (s : State) (v : Word) (addr : Word) : (s.setPC v).memReadWord addr = s.memReadWord addr := rfl
@[simp] theorem State.setSP_memRead (s : State) (v : Word) (addr : Word) : (s.setSP v).memRead addr = s.memRead addr := rfl
@[simp] theorem State.setSP_memReadWord (s : State) (v : Word) (addr : Word) : (s.setSP v).memReadWord addr = s.memReadWord addr := rfl
@[simp] theorem State.charge_memRead (s : State) (k : Int) (addr : Word) : (s.charge k).memRead addr = s.memRead addr := rfl
@[simp] theorem State.charge_memReadWord (s : State) (k : Int) (addr : Word) : (s.charge k).memReadWord addr = s.memReadWord addr := rfl
@[simp] theorem State.fetched_memRead (s : State) (addr : Word) : (s.fetched).memRead addr = s.memRead addr := rfl
@[simp] theorem State.fetched_memReadWord (s : State) (addr : Word) : (s.fetched).memReadWord addr = s.memReadWord addr := rfl
@[simp] theorem State.setZN_memRead (s : State) (v : Byte) (addr : Word) : (s.setZN v).memRead addr = s.memRead addr := rfl
@[simp] theorem State.setZN_memReadWord (s : State) (v : Byte) (addr : Word) : (s.setZN v).memReadWord addr = s.memReadWord addr := rfl
@[simp] theorem State.setReg_memRead (s : State) (r : Reg) (v : Byte) (addr : Word) :
    (s.setReg r v).memRead addr = s.memRead addr := by cases r <;> rfl

end Sys2Proof.Machine
end

