-- ==== Sys2Proof/Laws/Ops.lean ====
section
/-! SUPPORT. What each shared operation can do, once: the resolver's modes, the tails of the loads and stores, and JSR's word
write. -/

namespace Sys2Proof.Machine

/-- The page-crossing charge touches `remaining` alone (41_addressing_modes.md R90). -/
theorem chargePageCross_eq (rule : PageCrossRule) (base : Word) (index : Byte) (s : State) :
    chargePageCross rule base index s =
      { s with remaining := s.remaining - if pageCrossed rule base index then 1 else 0 } := by
  unfold chargePageCross
  split <;> simp [State.charge]

/-- The high byte changes exactly when the low byte and the index carry (R91). -/
theorem pageCrossed_highByteChanged (base : Word) (index : Byte) :
    pageCrossed .highByteChanged base index = decide (256 ≤ base.toNat % 256 + index.toNat) := by
  have hb := base.isLt
  have hi := index.isLt
  have key : highByte (base + zext16 index) ≠ highByte base ↔ 256 ≤ base.toNat % 256 + index.toNat := by
    rw [ne_eq, ← BitVec.toNat_inj, highByte_toNat, highByte_toNat, BitVec.toNat_add, zext16_toNat]
    omega
  by_cases h : 256 ≤ base.toNat % 256 + index.toNat
  · simpa [pageCrossed, h] using key.mpr h
  · simpa [pageCrossed, h] using mt key.mp h

/-- Everything a load's tail does (42_loads.md R111, R112). -/
theorem load_eq (r : Reg) (v : Byte × State) : load r v = .next ((v.2.setReg r v.1).setZN v.1) := rfl

/-- Everything a memory-mode load does once the address is known (R102, R112). -/
theorem loadAt_eq (r : Reg) (ea : Word × State) :
    loadAt r ea = .next (((ea.2.charge 1).setReg r (ea.2.memRead ea.1)).setZN (ea.2.memRead ea.1)) := rfl

/-- Everything a store does once the address is known (43_stores.md R140). -/
theorem storeAt_eq (r : Reg) (ea : Word × State) :
    storeAt r ea = .next ((ea.2.memWrite ea.1 (ea.2.reg r)).charge 1) := rfl

/-- `exec` is every instruction's meaning at the default configuration (00_scope.md R4). -/
theorem exec_eq_execUnder (i : Instr) (s : State) : exec i s = execUnder Config.default i s := by
  cases i <;> rfl

/-- The bytes the decoder is given are those successive `FetchByte()`s return (40_dispatch_loop.md R71). -/
theorem instrBytes_eq_fetches (s : State) :
    instrBytes s = [(fetchByte s).1, (fetchByte s.fetched).1, (fetchByte s.fetched.fetched).1] := by
  have h : s.pc + 1 + 1 = s.pc + 2 := by rw [BitVec.add_assoc]; rfl
  simp only [instrBytes, fetchByte, State.fetched_memRead, State.fetched_pc, h]

/-- What one turn of the block can do when it answers a next state. -/
theorem turn_cases {cfg : Config} {run : Instr → State → Result} {s t : State} (h : turn cfg run s = .next t) :
    s.fault = none ∧
      ((s.remaining ≤ 0 ∧ t = s) ∨
       (0 < s.remaining ∧ ∃ i, instrAtUnder cfg s = .ok i ∧ run i s = .next t) ∨
       (0 < s.remaining ∧ ∃ e, instrAtUnder cfg s = .error e ∧
          t = raiseUnimplementedOpcode (s.memRead s.pc) s.pc s.fetched)) := by
  unfold turn at h
  split at h
  · cases h
  · next hf =>
    refine ⟨hf, ?_⟩
    split at h
    · next hr =>
      unfold runInstruction at h
      split at h
      · next i hi => exact .inr (.inl ⟨hr, i, hi, h⟩)
      · next e he => injection h with h; exact .inr (.inr ⟨hr, e, he, h.symm⟩)
    · next hr => injection h with h; exact .inl ⟨by omega, h.symm⟩

end Sys2Proof.Machine
end

