-- ==== Sys2Proof/Laws/PerInstr.lean ====
section
/-! SUPPORT. Facts about every instruction as syntax, one lemma per constructor. -/

namespace Sys2Proof.Laws.Encoding

/-- The encoding begins with the opcode the configuration gives the form, is as long as the form says (30_encoding.md R50, R51),
and the default block has the form (R54). -/
def Statement (i : Instr) : Prop :=
  (∀ cfg : Config, (encodeUnder cfg i).head? = some (cfg.opcodeMap i.form) ∧ (encodeUnder cfg i).length = i.form.length) ∧
    i.wellFormed = true

theorem ldaImm (imm : Byte) : Statement (.ldaImm imm) := ⟨fun _ => ⟨rfl, rfl⟩, rfl⟩
theorem ldaZp (zp : Byte) : Statement (.ldaZp zp) := ⟨fun _ => ⟨rfl, rfl⟩, rfl⟩
theorem ldaZpX (zp : Byte) : Statement (.ldaZpX zp) := ⟨fun _ => ⟨rfl, rfl⟩, rfl⟩
theorem ldaAbs (addr : Word) : Statement (.ldaAbs addr) := ⟨fun _ => ⟨rfl, rfl⟩, rfl⟩
theorem ldaAbsX (base : Word) : Statement (.ldaAbsX base) := ⟨fun _ => ⟨rfl, rfl⟩, rfl⟩
theorem ldaAbsY (base : Word) : Statement (.ldaAbsY base) := ⟨fun _ => ⟨rfl, rfl⟩, rfl⟩
theorem ldaIndX (zp : Byte) : Statement (.ldaIndX zp) := ⟨fun _ => ⟨rfl, rfl⟩, rfl⟩
theorem ldaIndY (zp : Byte) : Statement (.ldaIndY zp) := ⟨fun _ => ⟨rfl, rfl⟩, rfl⟩
theorem ldxImm (imm : Byte) : Statement (.ldxImm imm) := ⟨fun _ => ⟨rfl, rfl⟩, rfl⟩
theorem ldxZp (zp : Byte) : Statement (.ldxZp zp) := ⟨fun _ => ⟨rfl, rfl⟩, rfl⟩
theorem ldxZpY (zp : Byte) : Statement (.ldxZpY zp) := ⟨fun _ => ⟨rfl, rfl⟩, rfl⟩
theorem ldxAbs (addr : Word) : Statement (.ldxAbs addr) := ⟨fun _ => ⟨rfl, rfl⟩, rfl⟩
theorem ldxAbsY (base : Word) : Statement (.ldxAbsY base) := ⟨fun _ => ⟨rfl, rfl⟩, rfl⟩
theorem ldyImm (imm : Byte) : Statement (.ldyImm imm) := ⟨fun _ => ⟨rfl, rfl⟩, rfl⟩
theorem ldyZp (zp : Byte) : Statement (.ldyZp zp) := ⟨fun _ => ⟨rfl, rfl⟩, rfl⟩
theorem ldyZpX (zp : Byte) : Statement (.ldyZpX zp) := ⟨fun _ => ⟨rfl, rfl⟩, rfl⟩
theorem ldyAbs (addr : Word) : Statement (.ldyAbs addr) := ⟨fun _ => ⟨rfl, rfl⟩, rfl⟩
theorem ldyAbsX (base : Word) : Statement (.ldyAbsX base) := ⟨fun _ => ⟨rfl, rfl⟩, rfl⟩
theorem staZp (zp : Byte) : Statement (.staZp zp) := ⟨fun _ => ⟨rfl, rfl⟩, rfl⟩
theorem staAbs (addr : Word) : Statement (.staAbs addr) := ⟨fun _ => ⟨rfl, rfl⟩, rfl⟩
theorem stxZp (zp : Byte) : Statement (.stxZp zp) := ⟨fun _ => ⟨rfl, rfl⟩, rfl⟩
theorem stxAbs (addr : Word) : Statement (.stxAbs addr) := ⟨fun _ => ⟨rfl, rfl⟩, rfl⟩
theorem styZp (zp : Byte) : Statement (.styZp zp) := ⟨fun _ => ⟨rfl, rfl⟩, rfl⟩
theorem styAbs (addr : Word) : Statement (.styAbs addr) := ⟨fun _ => ⟨rfl, rfl⟩, rfl⟩
theorem jsr (target : Word) : Statement (.jsr target) := ⟨fun _ => ⟨rfl, rfl⟩, rfl⟩

end Sys2Proof.Laws.Encoding
end

