-- ==== Sys2Proof/Tests/Slice0.lean ====
section
/-! SUPPORT. Tests. Expected results are those of spec/95_test_vectors.md (V<n>, S<n>) or of the example named; the bytes of each
decode test are written out from the encoding column of 30_encoding.md R55. Each run is one `Execute(1)`: one instruction. -/

namespace Sys2Proof.Tests

open Sys2Proof.Machine Sys2Proof.Claims

/-- The state after reset with `PC = pc`, the given bytes at `pc` and the given cells written. -/
def start (pc : Word) (bytes : List Byte) (cells : List (Word × Byte)) : State :=
  cells.foldl (fun s cell => s.memWrite cell.1 cell.2) (placeBytes bytes pc { State.reset with pc := pc })

/-- `Execute(1)` returns the given cycle count and a state with the given property. -/
def runs (s : State) (used : Int) (p : State → Bool) : Bool :=
  match execute 1 s with
  | .returned u t => u == used && p t
  | .raised _ _ => false

/-- The flags in the order of the vectors, `C Z I D B V N`. -/
def flagsOf (t : State) : List Bool :=
  [t.flags.c, t.flags.z, t.flags.i, t.flags.d, t.flags.b, t.flags.v, t.flags.n]

/-- Flags given in the order of the vectors. -/
def mkFlags (c z i d b v n : Bool) : Flags := { c := c, z := z, i := i, d := d, b := b, v := v, n := n }

/-! ### Well-formedness: one ill-formed term for each check -/

/-- A configuration whose `OPCODE_MAP` gives STY Absolute the opcode of JSR is not well formed (R55). -/
theorem test_wf_refuses_clashing_opcodes :
    ({ Config.default with
        opcodeMap := fun f => if f = .styAbs then 0x20 else defaultOpcodeMap f } : Config).wellFormed = false := by
  decide

/-- The default configuration with another `LOAD_MODES`. -/
def withLoadModes (modes : Reg → Mode → Bool) : Config := { Config.default with loadModes := modes }

/-- A `LOAD_MODES` without LDX Immediate is not well formed (R4), and the block has LDX Immediate all the same (R53). -/
theorem test_wf_refuses_missing_immediate :
    let cfg := withLoadModes fun r m => if r = .x ∧ m = .immediate then false else defaultLoadModes r m
    cfg.hasImmediateLoads = false ∧ cfg.wellFormed = false ∧ decodeUnder cfg [0xA2, 0x80] = .ok (.ldxImm 0x80, []) := by
  exact ⟨by decide, by decide, rfl⟩

/-- A `LOAD_MODES` in which no load takes ZeroPage,Y leaves a mode of the mode list without use (R53), and one with JSR's operand
as a mode of a load has a mode beyond the list. -/
theorem test_wf_refuses_other_modes :
    (withLoadModes fun r m => if m = .zeroPageY then false else defaultLoadModes r m).wellFormed = false ∧
    (withLoadModes fun r m => if m = .target then true else defaultLoadModes r m).wellFormed = false := by
  decide

/-- In a well-formed block without LDY Absolute,X that form is not well formed, and its opcode does not decode (R54). -/
theorem test_wf_refuses_absent_form :
    let cfg := withLoadModes fun r m => if r = .y ∧ m = .absoluteX then false else defaultLoadModes r m
    cfg.wellFormed = true ∧ (Instr.ldyAbsX 0x4402).wellFormedUnder cfg = false ∧
      decodeUnder cfg [0xBC, 0x02, 0x44] = .error (.unimplementedOpcode 0xBC) := by
  exact ⟨by decide, by decide, rfl⟩

theorem test_wf_default : Config.default.wellFormed = true := by decide

/-- Memory with a cell listed twice, out of order, holding `0x00`, or beyond 16 bits is not in canonical form. -/
theorem test_memory_wf_refuses :
    Memory.wf [(3, 1), (3, 2)] = false ∧ Memory.wf [(4, 1), (3, 2)] = false ∧ Memory.wf [(3, 0)] = false ∧
      Memory.wf [(65536, 1)] = false := by
  decide

/-! ### Decoding, word by word, every constructor -/

theorem test_decode_lda :
    decode [0b10101001, 0x84] = .ok (.ldaImm 0x84, []) ∧ decode [0b10100101, 0x42] = .ok (.ldaZp 0x42, []) ∧
    decode [0b10110101, 0x80] = .ok (.ldaZpX 0x80, []) ∧ decode [0b10101101, 0x80, 0x44] = .ok (.ldaAbs 0x4480, []) ∧
    decode [0b10111101, 0x02, 0x44] = .ok (.ldaAbsX 0x4402, []) ∧
    decode [0b10111001, 0x80, 0x44] = .ok (.ldaAbsY 0x4480, []) ∧
    decode [0b10100001, 0x20] = .ok (.ldaIndX 0x20, []) ∧ decode [0b10110001, 0x86] = .ok (.ldaIndY 0x86, []) := by
  refine ⟨rfl, rfl, rfl, rfl, rfl, rfl, rfl, rfl⟩

theorem test_decode_ldx :
    decode [0b10100010, 0x84] = .ok (.ldxImm 0x84, []) ∧ decode [0b10100110, 0x10] = .ok (.ldxZp 0x10, []) ∧
    decode [0b10110110, 0x80] = .ok (.ldxZpY 0x80, []) ∧ decode [0b10101110, 0x00, 0x03] = .ok (.ldxAbs 0x0300, []) ∧
    decode [0b10111110, 0x02, 0x44] = .ok (.ldxAbsY 0x4402, []) := by
  refine ⟨rfl, rfl, rfl, rfl, rfl⟩

theorem test_decode_ldy :
    decode [0b10100000, 0x84] = .ok (.ldyImm 0x84, []) ∧ decode [0b10100100, 0x42] = .ok (.ldyZp 0x42, []) ∧
    decode [0b10110100, 0x80] = .ok (.ldyZpX 0x80, []) ∧ decode [0b10101100, 0x80, 0x44] = .ok (.ldyAbs 0x4480, []) ∧
    decode [0b10111100, 0xFF, 0x44] = .ok (.ldyAbsX 0x44FF, []) := by
  refine ⟨rfl, rfl, rfl, rfl, rfl⟩

theorem test_decode_stores :
    decode [0b10000101, 0x10] = .ok (.staZp 0x10, []) ∧ decode [0b10001101, 0x00, 0x03] = .ok (.staAbs 0x0300, []) ∧
    decode [0b10000110, 0x20] = .ok (.stxZp 0x20, []) ∧ decode [0b10001110, 0x00, 0x03] = .ok (.stxAbs 0x0300, []) ∧
    decode [0b10000100, 0x30] = .ok (.styZp 0x30, []) ∧ decode [0b10001100, 0xFF, 0xFF] = .ok (.styAbs 0xFFFF, []) := by
  refine ⟨rfl, rfl, rfl, rfl, rfl, rfl⟩

theorem test_decode_jsr : decode [0b00100000, 0x34, 0x12, 0x99] = .ok (.jsr 0x1234, [0x99]) := rfl

/-- BRK, NOP, RTS and an indexed store are unimplemented (R56, K7); a cut-off instruction is rejected by its own name. -/
theorem test_decode_rejects :
    decode [0x00] = .error (.unimplementedOpcode 0x00) ∧ decode [0xEA] = .error (.unimplementedOpcode 0xEA) ∧
    decode [0x60] = .error (.unimplementedOpcode 0x60) ∧ decode [0x95, 0x10] = .error (.unimplementedOpcode 0x95) ∧
    decode [0xAD, 0x10] = .error .truncated := by
  refine ⟨rfl, rfl, rfl, rfl, rfl⟩

/-- The table's numbering: byte 0 is bits 7..0, byte 1 bits 15..8, byte 2 bits 23..16, and bits from `nbits` up are 0. -/
theorem test_decodeTableWord :
    decodeTableWord 24 0x444280 = none ∧ decodeTableWord 24 0x448042BD = some (.ldaAbsX 0x8042) ∧
    decodeTableWord 8 0xFFA9 = some (.ldaImm 0x00) ∧ decodeTableWord 16 0x84A9 = some (.ldaImm 0x84) := by
  refine ⟨rfl, rfl, rfl, rfl⟩

/-! ### Loads: V1 to V18 and the corner cases of 95_test_vectors.md -/

theorem test_V1 : runs (start 0x0200 [0xA9, 0x84] []) 2
    (fun t => t.a == 0x84 && !t.flags.z && t.flags.n && t.pc == 0x0202 && t.sp == 0x0100) = true := by decide

theorem test_S1_flags_kept : runs { start 0x0200 [0xA9, 0x84] [] with flags := mkFlags true true true true true true false } 2
    (fun t => t.a == 0x84 && flagsOf t == [true, false, true, true, true, true, true]) = true := by decide

theorem test_V2 : runs (start 0x0200 [0xA5, 0x42] [(0x0042, 0x37)]) 3
    (fun t => t.a == 0x37 && !t.flags.z && !t.flags.n && t.pc == 0x0202) = true := by decide

theorem test_V3 : runs { start 0x0200 [0xB5, 0x42] [(0x0047, 0x37)] with x := 0x05 } 4
    (fun t => t.a == 0x37 && t.x == 0x05 && t.pc == 0x0202) = true := by decide

theorem test_S3 : runs { start 0x0200 [0xB5, 0x80] [(0x007F, 0x37), (0x017F, 0xEE)] with x := 0xFF } 4
    (fun t => t.a == 0x37 && !t.flags.z && !t.flags.n) = true := by decide

theorem test_V4 : runs (start 0x0200 [0xAD, 0x80, 0x44] [(0x4480, 0x37)]) 4
    (fun t => t.a == 0x37 && t.pc == 0x0203) = true := by decide

theorem test_V29g : runs (start 0xFFFE [0xAD, 0x10, 0x02] [(0x0210, 0x7E)]) 4
    (fun t => t.a == 0x7E && t.pc == 0x0001) = true := by decide

theorem test_V5 : runs { start 0x0200 [0xBD, 0x80, 0x44] [(0x4481, 0x37)] with x := 0x01 } 4
    (fun t => t.a == 0x37 && t.pc == 0x0203) = true := by decide

theorem test_V29f : runs { start 0x0200 [0xBD, 0xFF, 0xFF] [(0x0001, 0x77)] with x := 0x02 } 5
    (fun t => t.a == 0x77) = true := by decide

theorem test_V6 : runs { start 0x0200 [0xB9, 0x80, 0x44] [(0x4481, 0x37)] with y := 0x01 } 4
    (fun t => t.a == 0x37) = true := by decide

theorem test_S4_absY_crossing : runs { start 0x0200 [0xB9, 0x02, 0x44] [(0x4501, 0x37)] with y := 0xFF } 5
    (fun t => t.a == 0x37) = true := by decide

theorem test_V7 : runs { start 0x0200 [0xA1, 0x02] [(0x0006, 0x00), (0x0007, 0x80), (0x8000, 0x37)] with x := 0x04 } 6
    (fun t => t.a == 0x37 && t.pc == 0x0202) = true := by decide

theorem test_V29 : runs { start 0x0200 [0xA1, 0xF0]
      [(0x00FF, 0x34), (0x0100, 0x12), (0x0000, 0x99), (0x1234, 0x5A), (0x9934, 0xEE)] with x := 0x0F } 6
    (fun t => t.a == 0x5A) = true := by decide

theorem test_V29c : runs { start 0x0200 [0xB1, 0x86] [(0x0086, 0xF8), (0x0087, 0x40), (0x4108, 0xC3)] with y := 0x10 } 6
    (fun t => t.a == 0xC3 && t.flags.n) = true := by decide

theorem test_V29e : runs { start 0x0200 [0xB1, 0x86] [(0x0086, 0x00), (0x0087, 0x40), (0x40FF, 0x37)] with y := 0xFF } 5
    (fun t => t.a == 0x37) = true := by decide

theorem test_V9 : runs { start 0x0200 [0xA2, 0x00] [] with x := 0x09 } 2
    (fun t => t.x == 0x00 && t.flags.z && !t.flags.n) = true := by decide

theorem test_V10 : runs (start 0x0200 [0xA6, 0x42] [(0x0042, 0x80)]) 3
    (fun t => t.x == 0x80 && !t.flags.z && t.flags.n) = true := by decide

theorem test_V25 : runs { start 0x0200 [0xB6, 0x01] [(0x0100, 0x66)] with x := 0x09, y := 0xFF } 4
    (fun t => t.x == 0x00 && t.flags.z && !t.flags.n && t.y == 0xFF) = true := by decide

theorem test_V12 : runs (start 0x0200 [0xAE, 0x80, 0x44] [(0x4480, 0x37)]) 4
    (fun t => t.x == 0x37 && t.a == 0x00) = true := by decide

theorem test_V13 : runs { start 0x0200 [0xBE, 0xFF, 0x44] [(0x4500, 0xFF)] with y := 0x01 } 5
    (fun t => t.x == 0xFF && !t.flags.z && t.flags.n) = true := by decide

theorem test_V14 : runs (start 0x0200 [0xA0, 0x7F] []) 2
    (fun t => t.y == 0x7F && !t.flags.z && !t.flags.n) = true := by decide

theorem test_V15 : runs { start 0x0200 [0xA4, 0x42] [] with y := 0x09 } 3
    (fun t => t.y == 0x00 && t.flags.z) = true := by decide

theorem test_V26 : runs { start 0x0200 [0xB4, 0xFF] [(0x0000, 0x91), (0x0100, 0x66)] with x := 0x01 } 4
    (fun t => t.y == 0x91 && t.flags.n && t.x == 0x01) = true := by decide

theorem test_V17 : runs (start 0x0200 [0xAC, 0x80, 0x44] [(0x4480, 0xC0)]) 4
    (fun t => t.y == 0xC0 && t.flags.n) = true := by decide

theorem test_V18 : runs { start 0x0200 [0xBC, 0xFF, 0x44] [(0x4500, 0x01)] with x := 0x01 } 5
    (fun t => t.y == 0x01 && !t.flags.z && !t.flags.n) = true := by decide

/-! ### Stores: V30 to V36 -/

theorem test_V30 : runs { start 0x0200 [0x85, 0x10] [] with a := 0x84 } 3
    (fun t => t.memRead 0x0010 == 0x84 && t.a == 0x84 && t.flags == Flags.cleared && t.pc == 0x0202) = true := by decide

theorem test_V31 : runs { start 0x0200 [0x8D, 0x00, 0x03] [(0x0300, 0xAA)] with
      flags := mkFlags true false true true true true true } 4
    (fun t => t.memRead 0x0300 == 0x00 && t.mem.length == 2 && flagsOf t == [true, false, true, true, true, true, true] &&
      t.pc == 0x0203) = true := by decide

theorem test_V32 : runs { start 0x0200 [0x86, 0x20] [] with x := 0x80 } 3
    (fun t => t.memRead 0x0020 == 0x80 && t.flags == Flags.cleared) = true := by decide

theorem test_V33 : runs { start 0x0200 [0x8E, 0x00, 0x03] [] with x := 0x84, flags := mkFlags true true true true true true true } 4
    (fun t => t.memRead 0x0300 == 0x84 && flagsOf t == [true, true, true, true, true, true, true]) = true := by decide

theorem test_V34 : runs { start 0x0200 [0x84, 0x30] [] with y := 0x10 } 3
    (fun t => t.memRead 0x0030 == 0x10) = true := by decide

theorem test_V35 : runs { start 0x0200 [0x8C, 0xFF, 0xFF] [] with y := 0xFF } 4
    (fun t => t.memRead 0xFFFF == 0xFF && t.pc == 0x0203) = true := by decide

/-- A store into its own operand executes with the old bytes (R147 b). -/
theorem test_V36 : runs { start 0x0200 [0x8D, 0x01, 0x02] [] with a := 0x99 } 4
    (fun t => instrBytes { t with pc := 0x0200 } == [0x8D, 0x99, 0x02]) = true := by decide

/-! ### JSR: V52 to V55 -/

theorem test_V52 : runs { start 0xFFFD [0x20, 0x00, 0x30] [] with sp := 0xFFFF } 6
    (fun t => t.memRead 0xFFFF == 0xFF && t.memRead 0x0000 == 0xFF && t.sp == 0x0000 && t.pc == 0x3000) = true := by decide

theorem test_V53 : runs { start 0x0300 [0x20, 0x00, 0x05] [] with sp := 0x0301 } 6
    (fun t => t.pc == 0x0500 && t.memRead 0x0301 == 0x02 && t.memRead 0x0302 == 0x03 && t.sp == 0x0302) = true := by decide

/-! ### The fault and reset: V70, V72, V81, V82 -/

/-- After reset nothing is loaded: `0x00` is fetched at `0xFFFC` and raises (V70). -/
theorem test_V70 : execute 1 State.reset =
    .raised { op := 0x00, address := 0xFFFC }
      { State.reset with pc := 0xFFFD, fault := some { op := 0x00, address := 0xFFFC } } := by decide

/-- A fault stays latched until reset, and an operand byte never faults (V73, V76). -/
theorem test_V73_V76 :
    execute 10 { State.reset with fault := some { op := 0xEA, address := 0x0202 } } =
      .raised { op := 0xEA, address := 0x0202 } { State.reset with fault := some { op := 0xEA, address := 0x0202 } } ∧
    runs (start 0x0200 [0xA5, 0xEA] [(0x00EA, 0xEA)]) 3 (fun t => t.a == 0xEA && t.flags.n) = true := by decide

/-- Reset clears memory and the latch and reads no vector; its constants are the configuration's (V81, V82). -/
theorem test_V81_V82 :
    hostOpReady Config.default { start 0x0200 [0xEA] [(0xFFFC, 0x34), (0xFFFD, 0x12)] with
        fault := some { op := 0xEA, address := 0x0200 } } .reset = (State.reset, .done) ∧
    (State.resetUnder { Config.default with resetPC := 0x0400, resetSP := 0x01FF }).pc = 0x0400 ∧
    (State.resetUnder { Config.default with resetPC := 0x0400, resetSP := 0x01FF }).sp = 0x01FF := by decide

/-- The other page-crossing rule prices V42 and V43 the other way round. -/
theorem test_V42_V43 :
    pageCrossed .highByteChanged 0x4400 0xFF = false ∧ pageCrossed .asImplemented 0x4400 0xFF = true ∧
    pageCrossed .highByteChanged 0x44F0 0x20 = true ∧ pageCrossed .asImplemented 0x44F0 0x20 = false := by decide

/-- The fetched word of the host runs as the first instruction after reset. -/
theorem test_withFetchWord :
    execute 1 (State.reset.withFetchWord 24 0x424220) =
      .returned 6 { State.reset.withFetchWord 24 0x424220 with
        pc := 0x4242, sp := 0x0101, remaining := 0
        mem := [(0x0100, 0xFE), (0x0101, 0xFF), (0xFFFC, 0x20), (0xFFFD, 0x42), (0xFFFE, 0x42)] } := by decide

/-! ### Witnesses: for every statement with hypotheses, values that meet them -/

/-- A state ready to run LDA #$84. -/
def ready : State := { start 0x0200 [0xA9, 0x84] [] with remaining := 3 }

/-- A state about to raise UnimplementedOpcode. -/
def raising : State := { State.reset with remaining := 1 }

/-- A state with the latch set. -/
def latched : State := { State.reset with pc := 0xFFFD, fault := some { op := 0x00, address := 0xFFFC } }

/-- Hypotheses of ByteWriteChangesOneCell, WordsAreLittleEndian, JsrWritesReturnAndJumps and HostMemoryOperations on cells: at
the top of memory, where the second cell wraps. -/
theorem witness_other_cell :
    (0xFFFE : Word) ≠ 0xFFFF ∧ (0xFFFE : Word) ≠ 0xFFFF + 1 ∧ (0x0001 : Word) ≠ 0xFFFF ∧ (0x0001 : Word) ≠ 0xFFFF + 1 := by
  decide

theorem witness_FetchWordReadsLowByteFirst : ({ State.reset with pc := 0xFFFF } : State).pc = 0xFFFF := rfl

/-- The clauses of SetZNUpdatesZeroAndNegative at the ends of their ranges, and an instruction that is no load. -/
theorem witness_SetZNUpdatesZeroAndNegative :
    (0x00 : Byte).toNat = 0 ∧ 1 ≤ (0x01 : Byte).toNat ∧ (0x7F : Byte).toNat ≤ 0x7F ∧ 0x80 ≤ (0x80 : Byte).toNat ∧
    (Instr.staZp 0x10).form.isLoad = false ∧ (Instr.jsr 0).form.isLoad = false := by
  decide

theorem witness_ZeroPageXLoadsWrapInPage : ({ State.reset with x := 0xFF } : State).x = 0xFF := rfl

theorem witness_LoadsWriteNothingElse : (Instr.ldaIndY 0x86).form.isLoad = true ∧ Reg.x ≠ Reg.a := by decide

theorem witness_StoresWriteOneCell : storeOf (.staZp 0xFF) = some (.a, zext16 0xFF) ∧ (0x0100 : Word) ≠ zext16 0xFF := by decide

theorem witness_InstructionsWriteOnlyTheirCells :
    (0x0102 : Word) ∉ cellsWritten State.reset (.jsr 0x4242) ∧ (0x00FF : Word) ∉ cellsWritten State.reset (.jsr 0x4242) := by
  decide

theorem witness_FlagPreservation : (Instr.styAbs 0xFFFF).form.isLoad = false := rfl

theorem witness_ProgramCounterAfterInstruction : (Instr.ldaImm 0).form ≠ .jsr ∧ (Instr.jsr 0x4242) = .jsr 0x4242 := by decide

theorem witness_FlagsAreNeverRead : (Instr.ldyAbsX 0).form.isLoad = true := rfl

/-- Both ways the page-crossing rules differ, at the ends of the ranges. -/
theorem witness_PageCrossRulesDifferExactlyHere :
    ((0xFF : Byte).toNat = 0xFF ∧ (0x4400 : Word).toNat % 256 = 0) ∧
    ((0x01 : Byte).toNat < 0xFF ∧ 256 ≤ (0x44FF : Word).toNat % 256 + (0x01 : Byte).toNat) ∧
    ((0xFE : Byte).toNat < 0xFF ∧ 256 ≤ (0x4402 : Word).toNat % 256 + (0xFE : Byte).toNat) := by
  decide

theorem witness_SuccessiveJsrWordsOverlap :
    (jsrReturns State.reset.pc [0x1000, 0x1234]).getLast? = some 0x1002 ∧
    State.reset.sp.toNat + [(0x1000 : Word), 0x1234].length < 65536 ∧
    (jsrReturns State.reset.pc [0x1000, 0x1234])[0]? = some 0xFFFE ∧
    (0x00FF : Word).toNat < State.reset.sp.toNat ∧ State.reset.sp.toNat + 2 < (0x0103 : Word).toNat := by
  decide

theorem witness_StoresAreSeenByFetch :
    storeOf (.staAbs 0x0202) = some (.a, 0x0202) ∧
    ∃ t u : State, exec (.staAbs 0x0202) State.reset = .next t ∧ u.mem = t.mem ∧ u.pc = 0x0202 :=
  ⟨rfl, _, { State.reset with pc := 0x0202, mem := Memory.write [] 0x0202 0x00 }, rfl, rfl, rfl⟩

theorem witness_DecodeOfEncode :
    Config.default.opcodesDistinct = true ∧ (Instr.ldxZpY 0x80).wellFormedUnder Config.default = true := by
  decide

theorem witness_FormsNoConfigurationTakesAway :
    Config.default.opcodesDistinct = true ∧ Config.default.wellFormed = true ∧
    Mode.indirectY ≠ Mode.target ∧ (Instr.styAbs 0xFFFF).form.isStore = true := by
  decide

theorem witness_EncodeOfDecode : decodeUnder Config.default [0x20, 0x34, 0x12, 0x00] = .ok (.jsr 0x1234, [0x00]) := rfl

theorem witness_StepRunsTheDecodedInstruction :
    ready.fault = none ∧ 0 < ready.remaining ∧
    decode [ready.memRead ready.pc, ready.memRead (ready.pc + 1), ready.memRead (ready.pc + 2)] = .ok (.ldaImm 0x84, [0x00]) :=
  ⟨rfl, by decide, rfl⟩

/-- Hypotheses of CycleTotals, UnimplementedOpcodeEntry and UnimplementedOpcodeIsNeverSkipped, and of
ExecuteRaisesOnUnimplementedOpcode. -/
theorem witness_unimplemented_opcode :
    raising.fault = none ∧ 0 < raising.remaining ∧ decodeOpcode (raising.memRead raising.pc) = none ∧ (0 : Int) < 1 := by
  decide

/-- Hypotheses of LatchedStepReportsTheFault and ExecuteWhileLatched. -/
theorem witness_latched : latched.fault = some { op := 0x00, address := 0xFFFC } := rfl

/-- Hypotheses of IdleStepKeepsTheState and ExecuteWithoutBudget, at the largest budget that runs nothing. -/
theorem witness_idle : State.reset.fault = none ∧ State.reset.remaining ≤ 0 ∧ (0 : Int) ≤ 0 := by decide

theorem witness_NothingElseFaults :
    latched.faultLatch = true ∧ raising.faultLatch = false ∧
    ∃ t, step raising = .next t ∧ t.faultLatch = true := ⟨rfl, rfl, _, rfl, rfl⟩

theorem witness_StepKeepsTheInvariant :
    (ready.inv = true ∧ ∃ t, step ready = .next t) ∧ (raising.inv = true ∧ ∃ t, step raising = .next t) :=
  ⟨⟨by decide, _, rfl⟩, ⟨by decide, _, rfl⟩⟩

/-- Hypotheses of ExecuteResultBounds, ExecuteIsAPrefixOfTheProgram, SmallerBudgetStopsEarlier and HostExecute. -/
theorem witness_execute_returns :
    (∃ used t, execute 1 ready = .returned used t) ∧ (1 : Int) ≤ 1 ∧ (0 : Int) ≤ 1 ∧
    ∃ r t, execute 1 State.reset = .raised r t :=
  ⟨⟨_, _, rfl⟩, by decide, by decide, _, _, rfl⟩

theorem witness_ExecuteRecursion : (0 : Int) < 1 ∧ ∃ t, nextInstruction ready = some t := ⟨by decide, _, rfl⟩

theorem witness_ExecuteOneRunsOneInstruction : ready.fault = none ∧ instrAt ready = .ok (.ldaImm 0x84) := ⟨rfl, rfl⟩

theorem witness_HostRegisterAccess : Reg.x ≠ Reg.a ∧ FlagName.n ≠ FlagName.z := by decide

end Sys2Proof.Tests
end

namespace Sys2Proof.Proofs.Memory

open Sys2Proof.Machine

/-- A byte write is seen by the next read of its cell (20_memory.md R32). -/
theorem memRead_memWrite_same (s : State) (addr : Word) (v : Byte) : (s.memWrite addr v).memRead addr = v := by
  rw [State.memRead_memWrite, if_pos rfl]

/-- A byte write changes no other cell (20_memory.md R32). -/
theorem memRead_memWrite_of_ne (s : State) {addr c : Word} (v : Byte) (hc : c ≠ addr) :
    (s.memWrite addr v).memRead c = s.memRead c := by
  rw [State.memRead_memWrite, if_neg hc]

/-- Settles O1: both clauses on cells are the two cases of `State.memRead_memWrite`; the frame is the definition of
`State.memWrite`. -/
theorem byteWriteChangesOneCell : Obligations.ByteWriteChangesOneCell := by
  intro s addr v
  exact ⟨memRead_memWrite_same s addr v, fun _ hc => memRead_memWrite_of_ne s v hc, rfl⟩

end Sys2Proof.Proofs.Memory

namespace Sys2Proof.Proofs.DispatchLoop

open Sys2Proof.Machine Sys2Proof.Claims

/-- The low byte is the word reduced to 8 bits (00_scope.md R6). -/
theorem lowByte_eq_ofNat (w : Word) : lowByte w = BitVec.ofNat 8 w.toNat := by
  apply BitVec.eq_of_toNat_eq
  rw [lowByte_toNat, BitVec.toNat_ofNat]

/-- The high byte is the quotient by 256, which fits in 8 bits. -/
theorem highByte_eq_ofNat (w : Word) : highByte w = BitVec.ofNat 8 (w.toNat / 256) := by
  have hfits : w.toNat / 256 < 2 ^ 8 := Nat.div_lt_of_lt_mul w.isLt
  apply BitVec.eq_of_toNat_eq
  rw [highByte_toNat, BitVec.toNat_ofNat, Nat.mod_eq_of_lt hfits]

/-- A word read is the little-endian number at its address (20_memory.md R33). -/
theorem memReadWord_toNat (s : State) (addr : Word) : (s.memReadWord addr).toNat = wordAt s addr :=
  wordOf_toNat _ _

/-- Everything `FetchByte()` does: `PC` and `remaining` move, nothing else (40_dispatch_loop.md R71). -/
theorem fetched_eq (s : State) : s.fetched = { s with pc := s.pc + 1, remaining := s.remaining - 1 } := rfl

/-- Everything `WriteWordC` does, its two bytes in arithmetic (40_dispatch_loop.md R76). -/
theorem writeWordC_eq (addr w : Word) (s : State) :
    writeWordC addr w s =
      { s with
        mem := Memory.write (Memory.write s.mem addr.toNat (BitVec.ofNat 8 w.toNat)) (addr + 1).toNat
          (BitVec.ofNat 8 (w.toNat / 256))
        remaining := s.remaining - 2 } := by
  rw [← lowByte_eq_ofNat, ← highByte_eq_ofNat]
  rfl

/-- Settles O3: the byte is the definition of `fetchByte`, the state is `fetched_eq`. -/
theorem fetchByteReadsAndAdvances : Obligations.FetchByteReadsAndAdvances :=
  fun s => congrArg (Prod.mk (s.memRead s.pc)) (fetched_eq s)

/-- Settles O5: a read only charges, and its word is `memReadWord_toNat`; the write is `writeWordC_eq`. -/
theorem chargedTransactions : Obligations.ChargedTransactions := by
  intro s addr w
  exact ⟨rfl, ⟨memReadWord_toNat s addr, rfl⟩, writeWordC_eq addr w s⟩

end Sys2Proof.Proofs.DispatchLoop

namespace Sys2Proof.Proofs.AddressingModes

open Sys2Proof.Machine Sys2Proof.Claims

/-! ### Addresses -/

/-- A zero-extended byte as an address in arithmetic (00_scope.md R7). -/
theorem zext16_eq_address (b : Byte) : zext16 b = address b.toNat := by
  have hfits : b.toNat < 2 ^ 16 := Nat.lt_trans b.isLt (by decide)
  apply BitVec.eq_of_toNat_eq
  rw [zext16_toNat, address, BitVec.toNat_ofNat, Nat.mod_eq_of_lt hfits]

/-- An indexed zero-page address stays in the zero page (41_addressing_modes.md R95, R96). -/
theorem zext16_add (b index : Byte) : zext16 (b + index) = address ((b.toNat + index.toNat) % 256) := by
  rw [zext16_eq_address, BitVec.toNat_add]

/-! ### What fetches and charges alone can do -/

/-- The state after `length` instruction bytes and `cycles` cycles, nothing else written: the only effect a mode has (R102). -/
def advanced (s : State) (length : Nat) (cycles : Int) : State :=
  { s with pc := s.pc + BitVec.ofNat 16 length, remaining := s.remaining - cycles }

/-- The opcode fetch begins the advance (40_dispatch_loop.md R71). -/
theorem fetched_eq_advanced (s : State) : s.fetched = advanced s 1 1 := rfl

theorem advanced_fetched (s : State) (length : Nat) (cycles : Int) :
    (advanced s length cycles).fetched = advanced s (length + 1) (cycles + 1) := by
  have hpc : s.pc + BitVec.ofNat 16 length + 1 = s.pc + BitVec.ofNat 16 (length + 1) := by
    rw [BitVec.ofNat_add, BitVec.add_assoc]; rfl
  rw [DispatchLoop.fetched_eq]
  simp only [advanced, hpc, Int.sub_sub]

/-- The opcode fetch and the fetch of one operand byte (40_dispatch_loop.md R71, R77). -/
theorem fetched_fetched (s : State) : s.fetched.fetched = advanced s 2 2 := by
  rw [fetched_eq_advanced s, advanced_fetched]; rfl

theorem advanced_charge (s : State) (length : Nat) (cycles k : Int) :
    (advanced s length cycles).charge k = advanced s length (cycles + k) := by
  simp only [advanced, State.charge, Int.sub_sub]

/-- Charges add up (40_dispatch_loop.md R73). -/
theorem charge_charge (s : State) (j k : Int) : (s.charge j).charge k = s.charge (j + k) := by
  simp only [State.charge, Int.sub_sub]

/-! ### The tail of a load -/

/-- `N` is the top bit of the loaded byte, `Z` that the byte is zero, in arithmetic (42_loads.md R110). -/
theorem updateZN_eq (f : Flags) (v : Byte) :
    Flags.updateZN f v = { f with z := decide (v.toNat = 0), n := decide (128 ≤ v.toNat) } := by
  have hz : (v == 0) = decide (v.toNat = 0) := by
    rw [Bool.eq_iff_iff, beq_iff_eq, decide_eq_true_eq, ← BitVec.toNat_inj]; rfl
  have hn : v.getLsbD 7 = decide (128 ≤ v.toNat) := BitVec.msb_eq_decide v
  rw [Flags.updateZN, hz, hn]

/-- A load's tail after fetches and charges alone (42_loads.md R111, R112). -/
theorem load_advanced (s : State) (r : Reg) (v : Byte) (length : Nat) (cycles : Int) :
    load r (v, advanced s length cycles) = .next (afterLoad s r v length cycles) := by
  rw [load_eq, State.setZN, updateZN_eq]
  cases r <;> rfl

/-- A memory-mode load after fetches and charges alone: its read costs one cycle more (R102, R112). -/
theorem loadAt_advanced (s : State) (r : Reg) (ea : Word) (length : Nat) (cycles : Int) :
    loadAt r (ea, advanced s length cycles) = .next (afterLoad s r (s.memRead ea) length (cycles + 1)) := by
  rw [loadAt, readByteC, advanced_charge]
  exact load_advanced s r (s.memRead ea) length (cycles + 1)

/-! ### The modes after the opcode fetch -/

/-- `Imm()` of an instruction: two bytes, two cycles (R93). -/
theorem modeImm_fetched (imm : Byte) (s : State) : modeImm imm s.fetched = (imm, advanced s 2 2) := by
  rw [modeImm, fetched_fetched]

/-- `AddrZPX()` of an instruction: two bytes, three cycles (R95). -/
theorem addrZPX_fetched (zp : Byte) (s : State) :
    addrZPX zp s.fetched = (address ((zp.toNat + s.x.toNat) % 256), advanced s 2 3) := by
  rw [addrZPX, State.fetched_x, zext16_add, fetched_fetched, advanced_charge]; rfl

/-- `AddrZPY()` of an instruction: two bytes, three cycles (R96). -/
theorem addrZPY_fetched (zp : Byte) (s : State) :
    addrZPY zp s.fetched = (address ((zp.toNat + s.y.toNat) % 256), advanced s 2 3) := by
  rw [addrZPY, State.fetched_y, zext16_add, fetched_fetched, advanced_charge]; rfl

/-! ### The loads, for any register -/

/-- Every Immediate load (R93, R112). -/
theorem load_modeImm (r : Reg) (imm : Byte) (s : State) :
    load r (modeImm imm s.fetched) = .next (afterLoad s r imm 2 2) := by
  rw [modeImm_fetched, load_advanced]

/-- Every ZeroPage,X load (R95, R112). -/
theorem loadAt_addrZPX (r : Reg) (zp : Byte) (s : State) :
    loadAt r (addrZPX zp s.fetched) =
      .next (afterLoad s r (s.memRead (address ((zp.toNat + s.x.toNat) % 256))) 2 4) := by
  rw [addrZPX_fetched, loadAt_advanced]; rfl

/-- Every ZeroPage,Y load (R96, R112). -/
theorem loadAt_addrZPY (r : Reg) (zp : Byte) (s : State) :
    loadAt r (addrZPY zp s.fetched) =
      .next (afterLoad s r (s.memRead (address ((zp.toNat + s.y.toNat) % 256))) 2 4) := by
  rw [addrZPY_fetched, loadAt_advanced]; rfl

/-! ### The obligations -/

/-- Settles O7: `Imm()` is `FetchByte()` by definition; the three loads are `load_modeImm` at their registers. -/
theorem immediateLoads : Obligations.ImmediateLoads := by
  intro s imm
  exact ⟨rfl, load_modeImm .a imm s, load_modeImm .x imm s, load_modeImm .y imm s⟩

/-- Settles O9: the address wraps by `zext16_add`, the mode's two cycles are one fetch and one charge, and both loads are
`loadAt_addrZPX`. -/
theorem zeroPageXLoadsWrapInPage : Obligations.ZeroPageXLoadsWrapInPage := by
  constructor
  · intro s zp
    refine ⟨?_, loadAt_addrZPX .a zp s, loadAt_addrZPX .y zp s⟩
    rw [addrZPX, zext16_add, State.fetched, charge_charge]; rfl
  · intro s hx
    rw [addrZPX, hx]; rfl

/-- Settles O10: as O9, with `Y` and `loadAt_addrZPY`. -/
theorem zeroPageYLoadsWrapInPage : Obligations.ZeroPageYLoadsWrapInPage := by
  intro s zp
  refine ⟨?_, loadAt_addrZPY .x zp s⟩
  rw [addrZPY, zext16_add, State.fetched, charge_charge]; rfl

end Sys2Proof.Proofs.AddressingModes

namespace Sys2Proof.Proofs.Loads

open Sys2Proof.Machine Sys2Proof.Claims Sys2Proof.Proofs.AddressingModes

/-! ### The other memory modes after the opcode fetch -/

/-- The opcode fetch and the fetches of a word operand (40_dispatch_loop.md R72, R77). -/
theorem fetched_fetched_fetched (s : State) : s.fetched.fetched.fetched = advanced s 3 3 := by
  rw [fetched_fetched s, advanced_fetched]; rfl

/-- What `PAGE_CROSS_RULE` adds to an indexed access (41_addressing_modes.md R90). -/
def crossingCost (rule : PageCrossRule) (base : Word) (index : Byte) : Int :=
  if pageCrossed rule base index then 1 else 0

theorem chargePageCross_advanced (rule : PageCrossRule) (base : Word) (index : Byte) (s : State) (length : Nat)
    (cycles : Int) :
    chargePageCross rule base index (advanced s length cycles) =
      advanced s length (cycles + crossingCost rule base index) := by
  rw [chargePageCross_eq]
  exact advanced_charge s length cycles (crossingCost rule base index)

/-- `AddrZP()` of an instruction: two bytes, two cycles (R94). -/
theorem addrZP_fetched (zp : Byte) (s : State) : addrZP zp s.fetched = (address zp.toNat, advanced s 2 2) := by
  rw [addrZP, zext16_eq_address, fetched_fetched]

/-- `AddrAbs()` of an instruction: three bytes, three cycles (R97). -/
theorem addrAbs_fetched (addr : Word) (s : State) : addrAbs addr s.fetched = (addr, advanced s 3 3) := by
  rw [addrAbs, fetched_fetched_fetched]

/-- `AddrAbsX()` of an instruction: three bytes, three cycles and the crossing (R98). -/
theorem addrAbsX_fetched (rule : PageCrossRule) (base : Word) (s : State) :
    addrAbsX rule base s.fetched = (base + zext16 s.x, advanced s 3 (3 + crossingCost rule base s.x)) := by
  rw [addrAbsX, State.fetched_x, fetched_fetched_fetched, chargePageCross_advanced]

/-- `AddrAbsY()` of an instruction: three bytes, three cycles and the crossing (R99). -/
theorem addrAbsY_fetched (rule : PageCrossRule) (base : Word) (s : State) :
    addrAbsY rule base s.fetched = (base + zext16 s.y, advanced s 3 (3 + crossingCost rule base s.y)) := by
  rw [addrAbsY, State.fetched_y, fetched_fetched_fetched, chargePageCross_advanced]

/-- A word read after fetches and charges alone: the word of the first state, two cycles more (40_dispatch_loop.md R74). -/
theorem readWordC_advanced (addr : Word) (s : State) (length : Nat) (cycles : Int) :
    readWordC addr (advanced s length cycles) = (s.memReadWord addr, advanced s length (cycles + 2)) := by
  rw [readWordC, advanced_charge]; rfl

/-- `AddrIndX()` of an instruction: two bytes, five cycles (R100). -/
theorem addrIndX_fetched (zp : Byte) (s : State) :
    addrIndX zp s.fetched = (s.memReadWord (address ((zp.toNat + s.x.toNat) % 256)), advanced s 2 5) := by
  rw [addrIndX, State.fetched_x, zext16_add, fetched_fetched, advanced_charge, readWordC_advanced]; rfl

/-- `AddrIndY()` of an instruction: two bytes, four cycles and the crossing from the pointer word (R101). -/
theorem addrIndY_fetched (rule : PageCrossRule) (zp : Byte) (s : State) :
    addrIndY rule zp s.fetched =
      (s.memReadWord (address zp.toNat) + zext16 s.y,
        advanced s 2 (4 + crossingCost rule (s.memReadWord (address zp.toNat)) s.y)) := by
  simp only [addrIndY, State.fetched_y, zext16_eq_address, fetched_fetched, readWordC_advanced,
    chargePageCross_advanced]
  rfl

/-! ### Every load ends in `afterLoad` -/

/-- A memory-mode load whose mode is given by its address and its advance (41_addressing_modes.md R102). -/
theorem loadAt_of_mode_eq {s : State} {ea : Word × State} {addr : Word} {length : Nat} {cycles : Int} (r : Reg)
    (hmode : ea = (addr, advanced s length cycles)) :
    loadAt r ea = .next (afterLoad s r (s.memRead addr) length (cycles + 1)) := by
  rw [hmode, loadAt_advanced]

/-- Each of the 18 loads completes with a byte in its form's register: the mode's equation, then the common tail
(42_loads.md R112). -/
theorem exec_load (i : Instr) (s : State) (hload : i.form.isLoad = true) :
    ∃ r v length cycles, i.form.register = some r ∧ exec i s = .next (afterLoad s r v length cycles) := by
  cases i with
  | ldaImm imm => exact ⟨.a, _, _, _, rfl, load_modeImm .a imm s⟩
  | ldaZp zp => exact ⟨.a, _, _, _, rfl, loadAt_of_mode_eq .a (addrZP_fetched zp s)⟩
  | ldaZpX zp => exact ⟨.a, _, _, _, rfl, loadAt_of_mode_eq .a (addrZPX_fetched zp s)⟩
  | ldaAbs addr => exact ⟨.a, _, _, _, rfl, loadAt_of_mode_eq .a (addrAbs_fetched addr s)⟩
  | ldaAbsX base => exact ⟨.a, _, _, _, rfl, loadAt_of_mode_eq .a (addrAbsX_fetched _ base s)⟩
  | ldaAbsY base => exact ⟨.a, _, _, _, rfl, loadAt_of_mode_eq .a (addrAbsY_fetched _ base s)⟩
  | ldaIndX zp => exact ⟨.a, _, _, _, rfl, loadAt_of_mode_eq .a (addrIndX_fetched zp s)⟩
  | ldaIndY zp => exact ⟨.a, _, _, _, rfl, loadAt_of_mode_eq .a (addrIndY_fetched _ zp s)⟩
  | ldxImm imm => exact ⟨.x, _, _, _, rfl, load_modeImm .x imm s⟩
  | ldxZp zp => exact ⟨.x, _, _, _, rfl, loadAt_of_mode_eq .x (addrZP_fetched zp s)⟩
  | ldxZpY zp => exact ⟨.x, _, _, _, rfl, loadAt_of_mode_eq .x (addrZPY_fetched zp s)⟩
  | ldxAbs addr => exact ⟨.x, _, _, _, rfl, loadAt_of_mode_eq .x (addrAbs_fetched addr s)⟩
  | ldxAbsY base => exact ⟨.x, _, _, _, rfl, loadAt_of_mode_eq .x (addrAbsY_fetched _ base s)⟩
  | ldyImm imm => exact ⟨.y, _, _, _, rfl, load_modeImm .y imm s⟩
  | ldyZp zp => exact ⟨.y, _, _, _, rfl, loadAt_of_mode_eq .y (addrZP_fetched zp s)⟩
  | ldyZpX zp => exact ⟨.y, _, _, _, rfl, loadAt_of_mode_eq .y (addrZPX_fetched zp s)⟩
  | ldyAbs addr => exact ⟨.y, _, _, _, rfl, loadAt_of_mode_eq .y (addrAbs_fetched addr s)⟩
  | ldyAbsX base => exact ⟨.y, _, _, _, rfl, loadAt_of_mode_eq .y (addrAbsX_fetched _ base s)⟩
  | staZp | staAbs | stxZp | stxAbs | styZp | styAbs | jsr => cases hload

/-! ### The registers after a load -/

theorem afterLoad_reg_same (s : State) (r : Reg) (v : Byte) (length : Nat) (cycles : Int) :
    (afterLoad s r v length cycles).reg r = v := by
  cases r <;> rfl

theorem afterLoad_reg_of_ne (s : State) {r r' : Reg} (v : Byte) (length : Nat) (cycles : Int) (hne : r' ≠ r) :
    (afterLoad s r v length cycles).reg r' = s.reg r' := by
  cases r' <;> exact if_neg hne.symm

/-- Settles O17: by `exec_load` the next state is an `afterLoad`, whose register holds the byte that `Z` and `N` are computed
from; the fields it does not write are the old ones by definition. -/
theorem loadsWriteNothingElse : Obligations.LoadsWriteNothingElse := by
  intro i s hload
  obtain ⟨r, v, length, cycles, hreg, hexec⟩ := exec_load i s hload
  refine ⟨_, r, hexec, hreg, ?_, ?_, fun r' hne => afterLoad_reg_of_ne s v length cycles hne,
    rfl, rfl, fun _ => rfl, rfl, rfl, rfl, rfl, rfl⟩
  · rw [afterLoad_reg_same]; rfl
  · rw [afterLoad_reg_same]; rfl

end Sys2Proof.Proofs.Loads

namespace Sys2Proof.Proofs.HostMemory

open Sys2Proof.Machine Sys2Proof.Claims

/-! ### Words in memory -/

/-- A word read answers the little-endian number at its address, as a word (20_memory.md R33). -/
theorem memReadWord_eq_address (s : State) (addr : Word) : s.memReadWord addr = address (wordAt s addr) := by
  rw [address, ← DispatchLoop.memReadWord_toNat, BitVec.ofNat_toNat, BitVec.setWidth_eq]

/-- A word write is seen by the next read of its two cells, which are distinct even at the top of memory (20_memory.md R34). -/
theorem memReadWord_memWriteWord_same (s : State) (addr w : Word) :
    (s.memWriteWord addr w).memReadWord addr = w := by
  have hlow : (s.memWriteWord addr w).memRead addr = lowByte w := by
    rw [State.memRead_memWriteWord, if_neg (add_one_ne addr).symm, if_pos rfl]
  have hhigh : (s.memWriteWord addr w).memRead (addr + 1) = highByte w := by
    rw [State.memRead_memWriteWord, if_pos rfl]
  rw [State.memReadWord, hlow, hhigh, wordOf_high_low]

theorem wordAt_memWriteWord_same (s : State) (addr w : Word) : wordAt (s.memWriteWord addr w) addr = w.toNat := by
  rw [← DispatchLoop.memReadWord_toNat, memReadWord_memWriteWord_same]

/-- A word write changes no third cell (20_memory.md R34). -/
theorem memRead_memWriteWord_of_ne (s : State) {addr c : Word} (w : Word) (hlow : c ≠ addr) (hhigh : c ≠ addr + 1) :
    (s.memWriteWord addr w).memRead c = s.memRead c := by
  rw [State.memRead_memWriteWord, if_neg hhigh, if_neg hlow]

/-! ### The host's `Initialise` -/

/-- `Initialise` makes every cell 0 (70_reset_and_hazards.md R186). -/
@[simp] theorem memRead_initialiseMemory (s : State) (c : Word) : s.initialiseMemory.memRead c = 0 := rfl

/-! ### The obligation -/

/-- Settles O52: `hostOp` of a ready block is the operation on its state by definition; the word read is
`memReadWord_eq_address`, the cells after each write are the rules above, and each frame is the definition of the write. -/
theorem hostMemoryOperations : Obligations.HostMemoryOperations := by
  intro cfg s addr w v
  refine ⟨rfl, ?readWord, ?writeByte, ?writeWord, ?initialise⟩
  case readWord =>
    rw [← memReadWord_eq_address]; rfl
  case writeByte =>
    exact ⟨s.memWrite addr v, rfl, rfl, Memory.memRead_memWrite_same s addr v,
      fun _ hc => Memory.memRead_memWrite_of_ne s v hc⟩
  case writeWord =>
    exact ⟨s.memWriteWord addr w, rfl, rfl, wordAt_memWriteWord_same s addr w,
      fun _ hlow hhigh => memRead_memWriteWord_of_ne s w hlow hhigh⟩
  case initialise =>
    exact ⟨s.initialiseMemory, rfl, rfl, memRead_initialiseMemory s⟩

end Sys2Proof.Proofs.HostMemory

namespace Sys2Proof.Proofs.Encoding

open Sys2Proof.Machine

/-! ### Opcodes (30_encoding.md section 2) -/

theorem mem_formAll (f : Form) : f ∈ Form.all := by
  cases f <;> decide

/-- Distinct opcodes: the map is injective (R55). -/
theorem opcodeMap_injective {cfg : Config} (hdistinct : cfg.opcodesDistinct = true) {f g : Form}
    (hmap : cfg.opcodeMap f = cfg.opcodeMap g) : f = g := by
  have hfg := List.all_eq_true.mp (List.all_eq_true.mp hdistinct f (mem_formAll f)) g (mem_formAll g)
  simpa [hmap] using hfg

/-- An opcode byte that is found is that of a form the block has (R54, R55). -/
theorem decodeOpcodeUnder_eq_some {cfg : Config} {op : Byte} {f : Form} (hfind : decodeOpcodeUnder cfg op = some f) :
    cfg.implements f = true ∧ cfg.opcodeMap f = op := by
  simpa using List.find?_some hfind

/-- Some form the block has is found at the opcode of each form it has (R55). -/
theorem isSome_decodeOpcodeUnder_opcodeMap {cfg : Config} {f : Form} (himpl : cfg.implements f = true) :
    (decodeOpcodeUnder cfg (cfg.opcodeMap f)).isSome = true :=
  List.find?_isSome.mpr ⟨f, mem_formAll f, by simp [himpl]⟩

/-- With distinct opcodes it is that form. -/
theorem decodeOpcodeUnder_opcodeMap {cfg : Config} (hdistinct : cfg.opcodesDistinct = true) {f : Form}
    (himpl : cfg.implements f = true) : decodeOpcodeUnder cfg (cfg.opcodeMap f) = some f := by
  obtain ⟨g, hg⟩ := Option.isSome_iff_exists.mp (isSome_decodeOpcodeUnder_opcodeMap himpl)
  obtain ⟨-, hmap⟩ := decodeOpcodeUnder_eq_some hg
  rw [hg, opcodeMap_injective hdistinct hmap]

/-! ### Operands (30_encoding.md section 1) -/

/-- A word's bytes give the word back (R52). -/
theorem wordOperand_wordBytes (mk : Word → Instr) (w : Word) (rest : List Byte) :
    wordOperand mk (wordBytes w ++ rest) = .ok (mk w, rest) := by
  simp [wordOperand, wordBytes]

theorem byteOperand_eq_ok {mk : Byte → Instr} {bytes rest : List Byte} {i : Instr}
    (hok : byteOperand mk bytes = .ok (i, rest)) : ∃ b, i = mk b ∧ bytes = b :: rest := by
  cases bytes with
  | nil => cases hok
  | cons b bytes => cases hok; exact ⟨b, rfl, rfl⟩

theorem wordBytes_wordOf (hi lo : Byte) : wordBytes (wordOf hi lo) = [lo, hi] := by
  rw [wordBytes, lowByte_wordOf, highByte_wordOf]

theorem wordOperand_eq_ok {mk : Word → Instr} {bytes rest : List Byte} {i : Instr}
    (hok : wordOperand mk bytes = .ok (i, rest)) : ∃ w, i = mk w ∧ bytes = wordBytes w ++ rest := by
  match bytes, hok with
  | b1 :: b2 :: bytes, hok =>
    cases hok
    exact ⟨wordOf b2 b1, rfl, by rw [wordBytes_wordOf]; rfl⟩

/-- The operand bytes of an instruction decode to it at its form (R50, R52). -/
theorem decodeForm_operandBytes (i : Instr) (rest : List Byte) :
    decodeForm i.form (i.operandBytes ++ rest) = .ok (i, rest) := by
  cases i with
  | ldaImm | ldaZp | ldaZpX | ldaIndX | ldaIndY | ldxImm | ldxZp | ldxZpY | ldyImm | ldyZp | ldyZpX
  | staZp | stxZp | styZp => rfl
  | ldaAbs w | ldaAbsX w | ldaAbsY w | ldxAbs w | ldxAbsY w | ldyAbs w | ldyAbsX w
  | staAbs w | stxAbs w | styAbs w | jsr w => exact wordOperand_wordBytes _ w rest

/-- Bytes that decode at a form are the operand bytes of an instruction of that form (R52). -/
theorem decodeForm_eq_ok {f : Form} {bytes rest : List Byte} {i : Instr} (hok : decodeForm f bytes = .ok (i, rest)) :
    i.form = f ∧ bytes = i.operandBytes ++ rest := by
  cases f with
  | ldaImm | ldaZp | ldaZpX | ldaIndX | ldaIndY | ldxImm | ldxZp | ldxZpY | ldyImm | ldyZp | ldyZpX
  | staZp | stxZp | styZp =>
    obtain ⟨b, rfl, rfl⟩ := byteOperand_eq_ok hok
    exact ⟨rfl, rfl⟩
  | ldaAbs | ldaAbsX | ldaAbsY | ldxAbs | ldxAbsY | ldyAbs | ldyAbsX | staAbs | stxAbs | styAbs | jsr =>
    obtain ⟨w, rfl, rfl⟩ := wordOperand_eq_ok hok
    exact ⟨rfl, rfl⟩

/-- Two bytes are enough for every operand (R50). -/
theorem exists_decodeForm_eq_ok (f : Form) (b1 b2 : Byte) (rest : List Byte) :
    ∃ p, decodeForm f (b1 :: b2 :: rest) = .ok p := by
  cases f <;> exact ⟨_, rfl⟩

/-! ### The decoder -/

/-- A byte that is the opcode of a form is decoded at that form (R51). -/
theorem decodeUnder_cons_of_some {cfg : Config} {op : Byte} {f : Form} (hfind : decodeOpcodeUnder cfg op = some f)
    (rest : List Byte) : decodeUnder cfg (op :: rest) = decodeForm f rest := by
  rw [decodeUnder, hfind]

/-- Any other byte is rejected, whatever follows (R56). -/
theorem decodeUnder_cons_of_none {cfg : Config} {op : Byte} (hfind : decodeOpcodeUnder cfg op = none)
    (rest : List Byte) : decodeUnder cfg (op :: rest) = .error (.unimplementedOpcode op) := by
  rw [decodeUnder, hfind]

/-- Settles O30: the opcode is found at its own form by injectivity, and the operand bytes decode there. -/
theorem decodeOfEncode : Obligations.DecodeOfEncode := by
  intro cfg hdistinct i hwf rest
  rw [encodeUnder, List.cons_append, decodeUnder_cons_of_some (decodeOpcodeUnder_opcodeMap hdistinct hwf)]
  exact decodeForm_operandBytes i rest

/-- Settles O31: the opcode byte is found at a form the block has, and the rest are the operand bytes of that form. -/
theorem encodeOfDecode : Obligations.EncodeOfDecode := by
  intro cfg bytes rest i hok
  cases bytes with
  | nil => cases hok
  | cons op bytes =>
    cases hfind : decodeOpcodeUnder cfg op with
    | none => rw [decodeUnder_cons_of_none hfind] at hok; cases hok
    | some f =>
      rw [decodeUnder_cons_of_some hfind] at hok
      obtain ⟨himpl, rfl⟩ := decodeOpcodeUnder_eq_some hfind
      obtain ⟨rfl, rfl⟩ := decodeForm_eq_ok hok
      exact ⟨rfl, himpl⟩

/-! ### What the source fixes of the forms (30_encoding.md section 3) -/

/-- A form that is no load is in every block (R53). -/
theorem implements_of_not_load (cfg : Config) {f : Form} (hload : f.isLoad = false) : cfg.implements f = true := by
  rw [Config.implements, hload]

/-- An Immediate form is in every block (R4, R53). -/
theorem implements_of_immediate (cfg : Config) {f : Form} (hmode : f.mode = .immediate) : cfg.implements f = true := by
  rw [Config.implements, hmode]
  split <;> rfl

theorem wordBytes_eq_ofNat (w : Word) : wordBytes w = [BitVec.ofNat 8 w.toNat, BitVec.ofNat 8 (w.toNat / 256)] := by
  rw [wordBytes, DispatchLoop.lowByte_eq_ofNat, DispatchLoop.highByte_eq_ofNat]

/-- Each form is the form of an instruction. -/
theorem exists_instr_of_form (f : Form) : ∃ i : Instr, i.form = f := by
  obtain ⟨p, hp⟩ := exists_decodeForm_eq_ok f 0 0 []
  exact ⟨p.1, (decodeForm_eq_ok hp).1⟩

/-- A well-formed block has an instruction of each mode of the mode list (R4, R53). -/
theorem exists_instr_of_resolved_mode {cfg : Config} (hwf : cfg.wellFormed = true) {m : Mode} (hm : m ∈ Mode.resolved) :
    ∃ i : Instr, i.form.mode = m ∧ i.wellFormedUnder cfg = true := by
  obtain ⟨-, huses⟩ := Bool.and_eq_true_iff.mp hwf
  obtain ⟨hmodes, -⟩ := Bool.and_eq_true_iff.mp huses
  obtain ⟨f, -, hf⟩ := List.any_eq_true.mp (List.all_eq_true.mp hmodes m hm)
  obtain ⟨himpl, hmode⟩ := Bool.and_eq_true_iff.mp hf
  obtain ⟨i, rfl⟩ := exists_instr_of_form f
  exact ⟨i, eq_of_beq hmode, himpl⟩

/-- Settles O56: the forms are implemented whatever `LOAD_MODES` says, so O30 decodes their encodings; the modes are those of
`Config.usesTheModeList`; the stores are those of the table. -/
theorem formsNoConfigurationTakesAway : Obligations.FormsNoConfigurationTakesAway := by
  refine ⟨fun cfg hdistinct v w rest => ⟨?bytes, ?words⟩, ?modes, ?stores⟩
  case bytes =>
    have himpl : ∀ i ∈ [Instr.ldaImm v, .ldxImm v, .ldyImm v, .staZp v, .stxZp v, .styZp v],
        i.form.mode = .immediate ∨ i.form.isLoad = false := by simp [Instr.form, Form.mode, Form.isLoad]
    have hbytes : ∀ i ∈ [Instr.ldaImm v, .ldxImm v, .ldyImm v, .staZp v, .stxZp v, .styZp v],
        i.operandBytes = [v] := by simp [Instr.operandBytes]
    intro i hi
    have hdecode := decodeOfEncode cfg hdistinct i
      ((himpl i hi).elim (implements_of_immediate cfg) (implements_of_not_load cfg)) rest
    rwa [encodeUnder, hbytes i hi] at hdecode
  case words =>
    have himpl : ∀ i ∈ [Instr.staAbs w, .stxAbs w, .styAbs w, .jsr w], i.form.isLoad = false := by
      simp [Instr.form, Form.isLoad]
    have hbytes : ∀ i ∈ [Instr.staAbs w, .stxAbs w, .styAbs w, .jsr w], i.operandBytes = wordBytes w := by
      simp [Instr.operandBytes]
    intro i hi
    have hdecode := decodeOfEncode cfg hdistinct i (implements_of_not_load cfg (himpl i hi)) rest
    rwa [encodeUnder, hbytes i hi, wordBytes_eq_ofNat] at hdecode
  case modes =>
    intro cfg hwf m hm
    refine exists_instr_of_resolved_mode hwf ?_
    cases m with
    | target => exact absurd rfl hm
    | immediate | zeroPage | zeroPageX | zeroPageY | absolute | absoluteX | absoluteY | indirectX | indirectY => decide
  case stores =>
    intro i hstore
    cases i with
    | staZp | stxZp | styZp => exact .inl rfl
    | staAbs | stxAbs | styAbs => exact .inr rfl
    | ldaImm | ldaZp | ldaZpX | ldaAbs | ldaAbsX | ldaAbsY | ldaIndX | ldaIndY | ldxImm | ldxZp | ldxZpY | ldxAbs
    | ldxAbsY | ldyImm | ldyZp | ldyZpX | ldyAbs | ldyAbsX | jsr => cases hstore

/-! ### The default table (30_encoding.md sections 4, 5 and 7) -/

/-- The default `OPCODE_MAP` gives the forms, in order, the bytes of the table (R55). -/
theorem map_opcodeMap_default : Form.all.map Config.default.opcodeMap = Claims.opcodes := rfl

/-- The default block has all 25 forms (R54). -/
theorem implements_default (f : Form) : Config.default.implements f = true := by
  cases f <;> rfl

/-- Settles O32: a byte is found exactly when the map, which covers every form, gives it to one of them. -/
theorem exactlyTheTableOpcodesDecode : Obligations.ExactlyTheTableOpcodesDecode := by
  refine ⟨fun op => ?_, by decide, by decide, map_opcodeMap_default⟩
  rw [← map_opcodeMap_default, List.mem_map]
  constructor
  · intro hsome
    obtain ⟨f, hfind⟩ := Option.isSome_iff_exists.mp hsome
    exact ⟨f, mem_formAll f, (decodeOpcodeUnder_eq_some hfind).2⟩
  · rintro ⟨f, -, rfl⟩
    exact isSome_decodeOpcodeUnder_opcodeMap (implements_default f)

/-- Settles O33: each string is decoded by the table. -/
theorem exampleWordsDecode : Obligations.ExampleWordsDecode :=
  ⟨rfl, rfl, rfl, rfl, rfl, rfl, rfl, rfl, rfl, rfl, rfl, rfl, rfl⟩

end Sys2Proof.Proofs.Encoding

namespace Sys2Proof.Proofs.AddressingModes

open Sys2Proof.Machine Sys2Proof.Claims Sys2Proof.Proofs.Loads

/-! ### The other modes, for any register -/

/-- An indexed address is the sum modulo 65536 (R98, R99, R101). -/
theorem add_zext16 (base : Word) (index : Byte) : base + zext16 index = address (base.toNat + index.toNat) := by
  apply BitVec.eq_of_toNat_eq
  rw [BitVec.toNat_add, zext16_toNat, address, BitVec.toNat_ofNat]

/-- Every ZeroPage load (R94, R112). -/
theorem loadAt_addrZP (r : Reg) (zp : Byte) (s : State) :
    loadAt r (addrZP zp s.fetched) = .next (afterLoad s r (s.memRead (address zp.toNat)) 2 3) :=
  loadAt_of_mode_eq r (addrZP_fetched zp s)

/-- Every Absolute load (R97, R112). -/
theorem loadAt_addrAbs (r : Reg) (addr : Word) (s : State) :
    loadAt r (addrAbs addr s.fetched) = .next (afterLoad s r (s.memRead addr) 3 4) :=
  loadAt_of_mode_eq r (addrAbs_fetched addr s)

/-- Every Absolute,X load (R98, R112). -/
theorem loadAt_addrAbsX (rule : PageCrossRule) (r : Reg) (base : Word) (s : State) :
    loadAt r (addrAbsX rule base s.fetched) =
      .next (afterLoad s r (s.memRead (address (base.toNat + s.x.toNat))) 3 (4 + crossingCost rule base s.x)) := by
  rw [loadAt_of_mode_eq r (addrAbsX_fetched rule base s), add_zext16, Int.add_right_comm]; rfl

/-- Every Absolute,Y load (R99, R112). -/
theorem loadAt_addrAbsY (rule : PageCrossRule) (r : Reg) (base : Word) (s : State) :
    loadAt r (addrAbsY rule base s.fetched) =
      .next (afterLoad s r (s.memRead (address (base.toNat + s.y.toNat))) 3 (4 + crossingCost rule base s.y)) := by
  rw [loadAt_of_mode_eq r (addrAbsY_fetched rule base s), add_zext16, Int.add_right_comm]; rfl

/-- Every (Indirect,X) load (R100, R112). -/
theorem loadAt_addrIndX (r : Reg) (zp : Byte) (s : State) :
    loadAt r (addrIndX zp s.fetched) =
      .next (afterLoad s r (s.memRead (address (wordAt s (address ((zp.toNat + s.x.toNat) % 256))))) 2 6) := by
  rw [loadAt_of_mode_eq r (addrIndX_fetched zp s), HostMemory.memReadWord_eq_address]; rfl

/-- Every (Indirect),Y load (R101, R112). -/
theorem loadAt_addrIndY (rule : PageCrossRule) (r : Reg) (zp : Byte) (s : State) :
    loadAt r (addrIndY rule zp s.fetched) =
      .next (afterLoad s r (s.memRead (address (wordAt s (address zp.toNat) + s.y.toNat))) 2
        (5 + crossingCost rule (address (wordAt s (address zp.toNat))) s.y)) := by
  rw [loadAt_of_mode_eq r (addrIndY_fetched rule zp s), add_zext16, DispatchLoop.memReadWord_toNat,
    HostMemory.memReadWord_eq_address, Int.add_right_comm]
  rfl

/-- A store after fetches and charges alone: its write costs one cycle more (43_stores.md R140, 40_dispatch_loop.md R75). -/
theorem storeAt_advanced (s : State) (r : Reg) (ea : Word) (length : Nat) (cycles : Int) :
    storeAt r (ea, advanced s length cycles) = .next (afterStore s ea (s.reg r) length (cycles + 1)) := by
  have hreg : (advanced s length cycles).reg r = s.reg r := by cases r <;> rfl
  rw [storeAt_eq, hreg]
  simp only [State.memWrite, State.charge, advanced, afterStore, Int.sub_sub]

/-- Every ZeroPage store (R94, R140). -/
theorem storeAt_addrZP (r : Reg) (zp : Byte) (s : State) :
    storeAt r (addrZP zp s.fetched) = .next (afterStore s (address zp.toNat) (s.reg r) 2 3) := by
  rw [addrZP_fetched, storeAt_advanced]; rfl

/-- Every Absolute store (R97, R140). -/
theorem storeAt_addrAbs (r : Reg) (addr : Word) (s : State) :
    storeAt r (addrAbs addr s.fetched) = .next (afterStore s addr (s.reg r) 3 4) := by
  rw [addrAbs_fetched, storeAt_advanced]; rfl

/-! ### The page-crossing rule -/

/-- Under the default rule the cost is the carry out of the low byte (R91). -/
theorem crossingCost_default (base : Word) (index : Byte) :
    crossingCost Config.default.pageCrossRule base index = crossing base.toNat index := by
  simp only [crossingCost, crossing, Config.default, pageCrossed_highByteChanged, decide_eq_true_eq]

/-- A crossing of a page depends on the base only modulo 65536, and costs the same at the address of a pointer word. -/
theorem crossing_wordAt (s : State) (addr : Word) (index : Byte) :
    crossing (address (wordAt s addr)).toNat index = crossing (wordAt s addr) index := by
  rw [← HostMemory.memReadWord_eq_address, DispatchLoop.memReadWord_toNat]

/-- A crossing costs at most one cycle (R90). -/
theorem crossingCost_bounds (rule : PageCrossRule) (base : Word) (index : Byte) :
    0 ≤ crossingCost rule base index ∧ crossingCost rule base index ≤ 1 := by
  unfold crossingCost
  split <;> decide

/-- AS_IMPLEMENTED looks at the index alone (R92). -/
theorem pageCrossed_asImplemented (base : Word) (index : Byte) :
    pageCrossed .asImplemented base index = decide (index.toNat = 0xFF) := by
  rw [Bool.eq_iff_iff, pageCrossed, beq_iff_eq, decide_eq_true_eq, ← BitVec.toNat_inj]; rfl

/-- Settles O27: the rules in arithmetic differ where stated; each indexed load pays what its mode's equation says. -/
theorem pageCrossRulesDifferExactlyHere : Obligations.PageCrossRulesDifferExactlyHere := by
  constructor
  · intro base index
    have hindex := index.isLt
    rw [pageCrossed_highByteChanged, pageCrossed_asImplemented, ne_eq, decide_eq_decide]
    omega
  · intro rule base s
    exact ⟨loadAt_addrAbsX rule .a base s, loadAt_addrAbsX rule .y base s, loadAt_addrAbsY rule .a base s,
      loadAt_addrAbsY rule .x base s, fun zp => loadAt_addrIndY rule .a zp s⟩

/-! ### The instructions, mode by mode -/

/-- Settles O8: the mode is one fetch, and the six forms are `loadAt_addrZP` and `storeAt_addrZP` at their registers. -/
theorem zeroPageLoadsAndStores : Obligations.ZeroPageLoadsAndStores := by
  intro s zp
  refine ⟨?_, loadAt_addrZP .a zp s, loadAt_addrZP .x zp s, loadAt_addrZP .y zp s,
    storeAt_addrZP .a zp s, storeAt_addrZP .x zp s, storeAt_addrZP .y zp s⟩
  rw [addrZP, zext16_eq_address]; rfl

/-- Settles O11: the mode is `FetchWord()` by definition, and the six forms are `loadAt_addrAbs` and `storeAt_addrAbs`. -/
theorem absoluteLoadsAndStores : Obligations.AbsoluteLoadsAndStores := by
  intro s addr
  exact ⟨rfl, loadAt_addrAbs .a addr s, loadAt_addrAbs .x addr s, loadAt_addrAbs .y addr s,
    storeAt_addrAbs .a addr s, storeAt_addrAbs .x addr s, storeAt_addrAbs .y addr s⟩

/-- Settles O12: `loadAt_addrAbsX` under the default rule. -/
theorem absoluteXLoads : Obligations.AbsoluteXLoads := by
  intro s base
  rw [← crossingCost_default]
  exact ⟨loadAt_addrAbsX _ .a base s, loadAt_addrAbsX _ .y base s⟩

/-- Settles O13: `loadAt_addrAbsY` under the default rule. -/
theorem absoluteYLoads : Obligations.AbsoluteYLoads := by
  intro s base
  rw [← crossingCost_default]
  exact ⟨loadAt_addrAbsY _ .a base s, loadAt_addrAbsY _ .x base s⟩

/-- Settles O14. -/
theorem indirectXLoad : Obligations.IndirectXLoad :=
  fun s zp => loadAt_addrIndX .a zp s

/-- Settles O15: `loadAt_addrIndY` under the default rule. -/
theorem indirectYLoad : Obligations.IndirectYLoad := by
  intro s zp
  rw [← crossing_wordAt, ← crossingCost_default]
  exact loadAt_addrIndY _ .a zp s

end Sys2Proof.Proofs.AddressingModes

namespace Sys2Proof.Proofs.Jsr

open Sys2Proof.Machine Sys2Proof.Claims

/-- The state after JSR: the address of its last byte at `SP`, `SP` one up, `PC` at the target (44_jsr.md R150). -/
def afterJsr (s : State) (target : Word) : State :=
  { s.memWriteWord s.sp (s.pc + 2) with pc := target, sp := s.sp + 1, remaining := s.remaining - 6 }

/-- JSR makes three fetches, so the word it writes, one before `PC`, is the address of its third byte (R150). -/
theorem execJsr_eq (target : Word) (s : State) : execJsr target s = .next (afterJsr s target) := by
  have hret : s.pc + 3 - 1 = s.pc + 2 := by bv_omega
  have hcycles : s.remaining - 3 - 2 - 1 = s.remaining - 6 := by omega
  rw [execJsr, Loads.fetched_fetched_fetched s]
  simp only [AddressingModes.advanced, writeWordC, State.charge, State.setSP, State.setPC, afterJsr]
  rw [← hret, ← hcycles]
  rfl

/-- Every cell after JSR (44_jsr.md R150, 20_memory.md R34). -/
theorem memRead_afterJsr (s : State) (target c : Word) :
    (afterJsr s target).memRead c =
      if c = s.sp + 1 then highByte (s.pc + 2) else if c = s.sp then lowByte (s.pc + 2) else s.memRead c :=
  State.memRead_memWriteWord s s.sp c (s.pc + 2)

theorem memRead_afterJsr_sp (s : State) (target : Word) :
    (afterJsr s target).memRead s.sp = lowByte (s.pc + 2) := by
  rw [memRead_afterJsr, if_neg (add_one_ne s.sp).symm, if_pos rfl]

theorem memRead_afterJsr_sp_add_one (s : State) (target : Word) :
    (afterJsr s target).memRead (s.sp + 1) = highByte (s.pc + 2) := by
  rw [memRead_afterJsr, if_pos rfl]

theorem memRead_afterJsr_of_ne (s : State) (target : Word) {c : Word} (hlow : c ≠ s.sp) (hhigh : c ≠ s.sp + 1) :
    (afterJsr s target).memRead c = s.memRead c := by
  rw [memRead_afterJsr, if_neg hhigh, if_neg hlow]

@[simp] theorem afterJsr_reg (s : State) (target : Word) (r : Reg) : (afterJsr s target).reg r = s.reg r := by
  cases r <;> rfl

/-- Settles O16: `execJsr_eq` and the cells above. -/
theorem jsrWritesReturnAndJumps : Obligations.JsrWritesReturnAndJumps := by
  intro s target
  refine ⟨afterJsr s target, execJsr_eq target s, rfl, ?_, ?_, fun c => memRead_afterJsr_of_ne s target⟩
  · rw [memRead_afterJsr_sp, lowByte_toNat]
  · rw [memRead_afterJsr_sp_add_one, highByte_toNat]

/-! ### JSRs that follow one another (44_jsr.md R152) -/

/-- The first JSR of a chain runs, and the chain goes on from its target. -/
theorem jsrChain_cons (target : Word) (rest : List Word) (s : State) :
    jsrChain (target :: rest) s = jsrChain rest (afterJsr s target) := by
  rw [jsrChain, show exec (.jsr target) s = .next (afterJsr s target) from execJsr_eq target s]

theorem address_toNat (w : Word) : address w.toNat = w := by
  rw [address, BitVec.ofNat_toNat, BitVec.setWidth_eq]

theorem toNat_add_one (w : Word) (hw : w.toNat + 1 < 65536) : (w + 1).toNat = w.toNat + 1 := by
  bv_omega

theorem add_one_eq_address (w : Word) : w + 1 = address (w.toNat + 1) := by
  apply BitVec.eq_of_toNat_eq
  rw [BitVec.toNat_add, address, BitVec.toNat_ofNat]; rfl

/-- A JSR leaves every cell outside its two alone, in arithmetic. -/
theorem memRead_afterJsr_of_outside (s : State) (target : Word) {c : Word} (hfit : s.sp.toNat + 1 < 65536)
    (hc : c.toNat < s.sp.toNat ∨ s.sp.toNat + 1 < c.toNat) : (afterJsr s target).memRead c = s.memRead c := by
  apply memRead_afterJsr_of_ne
  · rintro rfl; omega
  · rintro rfl; rw [toNat_add_one _ hfit] at hc; omega

/-- What O28 says of the state `t` after a chain of JSRs from `s`, `last` being the return value of its last. -/
def ChainEffect (targets : List Word) (s : State) (last : Word) (t : State) : Prop :=
  jsrChain targets s = .next t ∧ t.sp.toNat = s.sp.toNat + targets.length ∧
    (∀ (k : Nat) (ret : Word), (jsrReturns s.pc targets)[k]? = some ret →
      (t.memRead (address (s.sp.toNat + k))).toNat = ret.toNat % 256) ∧
    (t.memRead (address (s.sp.toNat + targets.length))).toNat = last.toNat / 256 ∧
    (∀ c : Word, c.toNat < s.sp.toNat ∨ s.sp.toNat + targets.length < c.toNat → t.memRead c = s.memRead c) ∧
    t.flags = s.flags ∧ (∀ r : Reg, t.reg r = s.reg r)

/-- One JSR: both bytes of its return value are whole. -/
theorem chainEffect_singleton (target : Word) (s : State) (hfit : s.sp.toNat + 1 < 65536) :
    ChainEffect [target] s (s.pc + 2) (afterJsr s target) := by
  refine ⟨jsrChain_cons target [] s, toNat_add_one s.sp hfit, ?low, ?high,
    fun c => memRead_afterJsr_of_outside s target hfit, rfl, afterJsr_reg s target⟩
  case low =>
    intro k ret hret
    cases k with
    | zero =>
      cases hret
      rw [Nat.add_zero, address_toNat, memRead_afterJsr_sp, lowByte_toNat]
    | succ k => cases hret
  case high =>
    rw [List.length_singleton, ← add_one_eq_address, memRead_afterJsr_sp_add_one, highByte_toNat]

/-- One JSR before a chain: the chain's first write covers the high byte of its return value, and no write the low byte. -/
theorem chainEffect_cons {target last : Word} {rest : List Word} {s t : State}
    (hfit : s.sp.toNat + (rest.length + 1) < 65536) (hrest : ChainEffect rest (afterJsr s target) last t) :
    ChainEffect (target :: rest) s last t := by
  obtain ⟨hchain, hsp, hlow, hhigh, hcells, hflags, hregs⟩ := hrest
  have hsp1 : (afterJsr s target).sp.toNat = s.sp.toNat + 1 := toNat_add_one s.sp (by omega)
  rw [hsp1] at hsp hlow hhigh hcells
  simp only [ChainEffect, List.length_cons]
  refine ⟨by rw [jsrChain_cons, hchain], by omega, ?low, ?high, ?cells, hflags,
    fun r => (hregs r).trans (afterJsr_reg s target r)⟩
  case low =>
    intro k ret hret
    cases k with
    | zero =>
      cases hret
      rw [Nat.add_zero, address_toNat, hcells s.sp (by omega), memRead_afterJsr_sp, lowByte_toNat]
    | succ k =>
      rw [Nat.add_comm k, ← Nat.add_assoc]
      exact hlow k ret hret
  case high =>
    rw [Nat.add_comm rest.length, ← Nat.add_assoc]
    exact hhigh
  case cells =>
    intro c hc
    rw [hcells c (by omega), memRead_afterJsr_of_outside s target (by omega) (by omega)]

/-- Settles O28: by induction on the targets, with the chain of one as its base. -/
theorem successiveJsrWordsOverlap : Obligations.SuccessiveJsrWordsOverlap := by
  intro targets
  induction targets with
  | nil => intro s last hlast; cases hlast
  | cons target rest ih =>
    intro s last hlast hfit
    cases rest with
    | nil =>
      cases hlast
      exact ⟨_, chainEffect_singleton target s hfit⟩
    | cons next rest =>
      have hsp : (afterJsr s target).sp.toNat = s.sp.toNat + 1 :=
        toNat_add_one s.sp (by simp only [List.length_cons] at hfit; omega)
      have hfit' : (afterJsr s target).sp.toNat + (next :: rest).length < 65536 := by
        simp only [List.length_cons] at hfit ⊢; omega
      obtain ⟨t, ht⟩ := ih (afterJsr s target) last hlast hfit'
      exact ⟨t, chainEffect_cons hfit ht⟩

end Sys2Proof.Proofs.Jsr

namespace Sys2Proof.Proofs.Instructions

open Sys2Proof.Machine Sys2Proof.Claims Sys2Proof.Proofs.AddressingModes Sys2Proof.Proofs.Loads Sys2Proof.Proofs.Jsr

/-! ### Each instruction is a load, a store or JSR (30_encoding.md R53) -/

/-- The register a load writes and the byte it writes there, in arithmetic (42_loads.md R113 to R130). -/
def loadOf (s : State) : Instr → Option (Reg × Byte)
  | .ldaImm imm => some (.a, imm)
  | .ldaZp zp => some (.a, s.memRead (address zp.toNat))
  | .ldaZpX zp => some (.a, s.memRead (address ((zp.toNat + s.x.toNat) % 256)))
  | .ldaAbs addr => some (.a, s.memRead addr)
  | .ldaAbsX base => some (.a, s.memRead (address (base.toNat + s.x.toNat)))
  | .ldaAbsY base => some (.a, s.memRead (address (base.toNat + s.y.toNat)))
  | .ldaIndX zp => some (.a, s.memRead (address (wordAt s (address ((zp.toNat + s.x.toNat) % 256)))))
  | .ldaIndY zp => some (.a, s.memRead (address (wordAt s (address zp.toNat) + s.y.toNat)))
  | .ldxImm imm => some (.x, imm)
  | .ldxZp zp => some (.x, s.memRead (address zp.toNat))
  | .ldxZpY zp => some (.x, s.memRead (address ((zp.toNat + s.y.toNat) % 256)))
  | .ldxAbs addr => some (.x, s.memRead addr)
  | .ldxAbsY base => some (.x, s.memRead (address (base.toNat + s.y.toNat)))
  | .ldyImm imm => some (.y, imm)
  | .ldyZp zp => some (.y, s.memRead (address zp.toNat))
  | .ldyZpX zp => some (.y, s.memRead (address ((zp.toNat + s.x.toNat) % 256)))
  | .ldyAbs addr => some (.y, s.memRead addr)
  | .ldyAbsX base => some (.y, s.memRead (address (base.toNat + s.x.toNat)))
  | .staZp _ | .staAbs _ | .stxZp _ | .stxAbs _ | .styZp _ | .styAbs _ | .jsr _ => none

/-- The cycle totals under a page-crossing rule (70_reset_and_hazards.md R194, 41_addressing_modes.md R90). -/
def cyclesUnder (rule : PageCrossRule) (s : State) : Instr → Int
  | .ldaImm _ | .ldxImm _ | .ldyImm _ => 2
  | .ldaZp _ | .ldxZp _ | .ldyZp _ | .staZp _ | .stxZp _ | .styZp _ => 3
  | .ldaZpX _ | .ldyZpX _ | .ldxZpY _ => 4
  | .ldaAbs _ | .ldxAbs _ | .ldyAbs _ | .staAbs _ | .stxAbs _ | .styAbs _ => 4
  | .ldaAbsX base | .ldyAbsX base => 4 + crossingCost rule base s.x
  | .ldaAbsY base | .ldxAbsY base => 4 + crossingCost rule base s.y
  | .ldaIndX _ => 6
  | .ldaIndY zp => 5 + crossingCost rule (address (wordAt s (address zp.toNat))) s.y
  | .jsr _ => 6

theorem load_or_store_or_jsr (i : Instr) (s : State) :
    (∃ r v, loadOf s i = some (r, v)) ∨ (∃ r ea, storeOf i = some (r, ea)) ∨ ∃ target, i = .jsr target := by
  cases i with
  | ldaImm | ldaZp | ldaZpX | ldaAbs | ldaAbsX | ldaAbsY | ldaIndX | ldaIndY | ldxImm | ldxZp | ldxZpY | ldxAbs
  | ldxAbsY | ldyImm | ldyZp | ldyZpX | ldyAbs | ldyAbsX => exact .inl ⟨_, _, rfl⟩
  | staZp | staAbs | stxZp | stxAbs | styZp | styAbs => exact .inr (.inl ⟨_, _, rfl⟩)
  | jsr target => exact .inr (.inr ⟨target, rfl⟩)

theorem isLoad_eq_isSome_loadOf (i : Instr) (s : State) : i.form.isLoad = (loadOf s i).isSome := by
  cases i <;> rfl

theorem isLoad_of_loadOf {i : Instr} {s : State} {r : Reg} {v : Byte} (hload : loadOf s i = some (r, v)) :
    i.form.isLoad = true := by
  rw [isLoad_eq_isSome_loadOf i s, hload]; rfl

theorem isStore_eq_isSome_storeOf (i : Instr) : i.form.isStore = (storeOf i).isSome := by
  cases i <;> rfl

theorem isStore_of_storeOf {i : Instr} {r : Reg} {ea : Word} (hstore : storeOf i = some (r, ea)) :
    i.form.isStore = true := by
  rw [isStore_eq_isSome_storeOf, hstore]; rfl

theorem isLoad_eq_false_of_isStore {f : Form} (hstore : f.isStore = true) : f.isLoad = false := by
  revert hstore
  cases f <;> decide

theorem form_ne_jsr_of_isLoad {f : Form} (hload : f.isLoad = true) : f ≠ .jsr := by
  rintro rfl; cases hload

theorem form_ne_jsr_of_isStore {f : Form} (hstore : f.isStore = true) : f ≠ .jsr := by
  rintro rfl; cases hstore

/-- The cell a store writes is the one it stores to (43_stores.md R140). -/
theorem cellsWritten_of_storeOf {i : Instr} {r : Reg} {ea : Word} (hstore : storeOf i = some (r, ea)) (s : State) :
    cellsWritten s i = [ea] := by
  cases i with
  | staZp | staAbs | stxZp | stxAbs | styZp | styAbs => cases hstore; rfl
  | ldaImm | ldaZp | ldaZpX | ldaAbs | ldaAbsX | ldaAbsY | ldaIndX | ldaIndY | ldxImm | ldxZp | ldxZpY | ldxAbs
  | ldxAbsY | ldyImm | ldyZp | ldyZpX | ldyAbs | ldyAbsX | jsr => cases hstore

/-! ### What each of the three does, under any configuration -/

theorem execUnder_load (cfg : Config) {i : Instr} {s : State} {r : Reg} {v : Byte} (hload : loadOf s i = some (r, v)) :
    execUnder cfg i s = .next (afterLoad s r v i.form.length (cyclesUnder cfg.pageCrossRule s i)) := by
  cases i with
  | ldaImm imm | ldxImm imm | ldyImm imm => cases hload; exact load_modeImm _ _ s
  | ldaZp zp | ldxZp zp | ldyZp zp => cases hload; exact loadAt_addrZP _ zp s
  | ldaZpX zp | ldyZpX zp => cases hload; exact loadAt_addrZPX _ zp s
  | ldxZpY zp => cases hload; exact loadAt_addrZPY _ zp s
  | ldaAbs addr | ldxAbs addr | ldyAbs addr => cases hload; exact loadAt_addrAbs _ _ s
  | ldaAbsX base | ldyAbsX base => cases hload; exact loadAt_addrAbsX _ _ base s
  | ldaAbsY base | ldxAbsY base => cases hload; exact loadAt_addrAbsY _ _ base s
  | ldaIndX zp => cases hload; exact loadAt_addrIndX _ zp s
  | ldaIndY zp => cases hload; exact loadAt_addrIndY _ _ zp s
  | staZp | staAbs | stxZp | stxAbs | styZp | styAbs | jsr => cases hload

theorem execUnder_store (cfg : Config) {i : Instr} (s : State) {r : Reg} {ea : Word} (hstore : storeOf i = some (r, ea)) :
    execUnder cfg i s = .next (afterStore s ea (s.reg r) i.form.length (cyclesUnder cfg.pageCrossRule s i)) := by
  cases i with
  | staZp zp | stxZp zp | styZp zp => cases hstore; rw [zext16_eq_address]; exact storeAt_addrZP _ zp s
  | staAbs addr | stxAbs addr | styAbs addr => cases hstore; exact storeAt_addrAbs _ _ s
  | ldaImm | ldaZp | ldaZpX | ldaAbs | ldaAbsX | ldaAbsY | ldaIndX | ldaIndY | ldxImm | ldxZp | ldxZpY | ldxAbs
  | ldxAbsY | ldyImm | ldyZp | ldyZpX | ldyAbs | ldyAbsX | jsr => cases hstore

theorem execUnder_jsr (cfg : Config) (target : Word) (s : State) :
    execUnder cfg (.jsr target) s = .next (afterJsr s target) :=
  execJsr_eq target s

/-! ### The same under the default configuration -/

/-- The default rule gives the totals of the table (R91, R194). -/
theorem cyclesUnder_default (s : State) (i : Instr) :
    cyclesUnder Config.default.pageCrossRule s i = cycleTotal s i := by
  cases i with
  | ldaAbsX base | ldyAbsX base | ldaAbsY base | ldxAbsY base => exact congrArg (4 + ·) (crossingCost_default base _)
  | ldaIndY zp =>
    simp only [cyclesUnder, cycleTotal, crossingCost_default, crossing_wordAt, zext16_eq_address]
  | ldaImm | ldaZp | ldaZpX | ldaAbs | ldaIndX | ldxImm | ldxZp | ldxZpY | ldxAbs | ldyImm | ldyZp | ldyZpX | ldyAbs
  | staZp | staAbs | stxZp | stxAbs | styZp | styAbs | jsr => rfl

theorem exec_load_eq {i : Instr} {s : State} {r : Reg} {v : Byte} (hload : loadOf s i = some (r, v)) :
    exec i s = .next (afterLoad s r v i.form.length (cycleTotal s i)) := by
  rw [exec_eq_execUnder, execUnder_load Config.default hload, cyclesUnder_default]

theorem exec_store_eq {i : Instr} (s : State) {r : Reg} {ea : Word} (hstore : storeOf i = some (r, ea)) :
    exec i s = .next (afterStore s ea (s.reg r) i.form.length (cycleTotal s i)) := by
  rw [exec_eq_execUnder, execUnder_store Config.default s hstore, cyclesUnder_default]

theorem exec_jsr_eq (target : Word) (s : State) : exec (.jsr target) s = .next (afterJsr s target) :=
  execJsr_eq target s

/-- What an instruction can do: it completes, in one of three ways. -/
theorem exec_cases (i : Instr) (s : State) : ∃ t, exec i s = .next t ∧
    ((∃ r v, loadOf s i = some (r, v) ∧ t = afterLoad s r v i.form.length (cycleTotal s i)) ∨
     (∃ r ea, storeOf i = some (r, ea) ∧ t = afterStore s ea (s.reg r) i.form.length (cycleTotal s i)) ∨
     ∃ target, i = .jsr target ∧ t = afterJsr s target) := by
  obtain ⟨r, v, hload⟩ | ⟨r, ea, hstore⟩ | ⟨target, rfl⟩ := load_or_store_or_jsr i s
  · exact ⟨_, exec_load_eq hload, .inl ⟨r, v, hload, rfl⟩⟩
  · exact ⟨_, exec_store_eq s hstore, .inr (.inl ⟨r, ea, hstore, rfl⟩)⟩
  · exact ⟨_, exec_jsr_eq target s, .inr (.inr ⟨target, rfl, rfl⟩)⟩

/-! ### The cells and registers after a store -/

theorem memRead_afterStore_same (s : State) (ea : Word) (v : Byte) (length : Nat) (cycles : Int) :
    (afterStore s ea v length cycles).memRead ea = v :=
  Memory.memRead_memWrite_same s ea v

theorem memRead_afterStore_of_ne (s : State) {ea c : Word} (v : Byte) (length : Nat) (cycles : Int) (hc : c ≠ ea) :
    (afterStore s ea v length cycles).memRead c = s.memRead c :=
  Memory.memRead_memWrite_of_ne s v hc

theorem afterStore_reg (s : State) (ea : Word) (v : Byte) (length : Nat) (cycles : Int) (r : Reg) :
    (afterStore s ea v length cycles).reg r = s.reg r := by
  cases r <;> rfl

/-! ### What instructions leave alone -/

/-- Settles O18: a store answers its `afterStore`. -/
theorem storesWriteOneCell : Obligations.StoresWriteOneCell := by
  intro i s r ea hstore
  exact ⟨_, exec_store_eq s hstore, memRead_afterStore_same s ea _ _ _, fun c => memRead_afterStore_of_ne s _ _ _,
    afterStore_reg s ea _ _ _, rfl, rfl, rfl⟩

/-- Settles O19: a load keeps memory, a store writes the one cell of its list, JSR its two. -/
theorem instructionsWriteOnlyTheirCells : Obligations.InstructionsWriteOnlyTheirCells := by
  intro i s
  obtain ⟨t, hexec, ⟨r, v, -, rfl⟩ | ⟨r, ea, hstore, rfl⟩ | ⟨target, rfl, rfl⟩⟩ := exec_cases i s
  · exact ⟨_, hexec, fun _ _ => rfl⟩
  · refine ⟨_, hexec, fun c hc => memRead_afterStore_of_ne s _ _ _ ?_⟩
    rwa [cellsWritten_of_storeOf hstore, List.mem_singleton] at hc
  · refine ⟨_, hexec, fun c hc => ?_⟩
    obtain ⟨hlow, hhigh⟩ : c ≠ s.sp ∧ c ≠ s.sp + 1 := by simpa [cellsWritten] using hc
    exact memRead_afterJsr_of_ne s target hlow hhigh

/-- Settles O20: only `afterJsr` writes `SP`. -/
theorem onlyJsrMovesSP : Obligations.OnlyJsrMovesSP := by
  intro i s
  obtain ⟨t, hexec, ⟨r, v, hload, rfl⟩ | ⟨r, ea, hstore, rfl⟩ | ⟨target, rfl, rfl⟩⟩ := exec_cases i s
  · exact ⟨_, hexec, (if_neg (form_ne_jsr_of_isLoad (isLoad_of_loadOf hload))).symm⟩
  · exact ⟨_, hexec, (if_neg (form_ne_jsr_of_isStore (isStore_of_storeOf hstore))).symm⟩
  · exact ⟨_, hexec, rfl⟩

/-- An instruction that is no load keeps all seven flags (43_stores.md R140, 44_jsr.md R150). -/
theorem exec_keeps_flags_of_not_load {i : Instr} (s : State) (hload : i.form.isLoad = false) :
    ∃ t, exec i s = .next t ∧ t.flags = s.flags := by
  obtain ⟨t, hexec, ⟨r, v, hv, rfl⟩ | ⟨r, ea, -, rfl⟩ | ⟨target, -, rfl⟩⟩ := exec_cases i s
  · rw [isLoad_of_loadOf hv] at hload; cases hload
  · exact ⟨_, hexec, rfl⟩
  · exact ⟨_, hexec, rfl⟩

/-- Settles O21: a load writes `Z` and `N` alone, any other instruction no flag. -/
theorem flagPreservation : Obligations.FlagPreservation := by
  intro i s
  cases hload : i.form.isLoad with
  | true =>
    obtain ⟨r, v, length, cycles, -, hexec⟩ := exec_load i s hload
    exact ⟨_, hexec, rfl, rfl, rfl, rfl, rfl, fun h => by cases h⟩
  | false =>
    obtain ⟨t, hexec, hflags⟩ := exec_keeps_flags_of_not_load s hload
    simp only [hexec, Host.Outcome.next.injEq, exists_eq_left', hflags, and_self, implies_true]

theorem length_encode (i : Instr) : (encode i).length = i.form.length := by
  cases i <;> rfl

/-- Settles O22: a load or store advances `PC` by its form's length, which is that of its encoding; JSR sets it. -/
theorem programCounterAfterInstruction : Obligations.ProgramCounterAfterInstruction := by
  intro i s
  rw [length_encode]
  obtain ⟨t, hexec, ⟨r, v, hload, rfl⟩ | ⟨r, ea, hstore, rfl⟩ | ⟨target, rfl, rfl⟩⟩ := exec_cases i s
  · refine ⟨_, hexec, fun _ => rfl, ?_⟩
    rintro target rfl
    cases hload
  · refine ⟨_, hexec, fun _ => rfl, ?_⟩
    rintro target rfl
    cases hstore
  · refine ⟨_, hexec, fun h => absurd rfl h, ?_⟩
    rintro _ ⟨rfl⟩
    rfl

/-- Settles O6: the flags in arithmetic are `updateZN_eq`; the rest is `exec_keeps_flags_of_not_load`. -/
theorem setZNUpdatesZeroAndNegative : Obligations.SetZNUpdatesZeroAndNegative := by
  refine ⟨fun s v => ?_, fun i s hload => exec_keeps_flags_of_not_load s hload⟩
  simp only [State.setZN, updateZN_eq, decide_eq_true_eq, decide_eq_false_iff_not]
  refine ⟨trivial, ?_, ?_, ?_, ?_⟩ <;> omega

/-! ### What instructions never read -/

/-- What a load writes depends on `X`, `Y` and memory alone. -/
theorem loadOf_congr {s t : State} (hx : t.x = s.x) (hy : t.y = s.y) (hmem : t.mem = s.mem) (i : Instr) :
    loadOf t i = loadOf s i := by
  cases i <;> simp only [loadOf, wordAt, State.memRead, hx, hy, hmem]

/-- So does the cycle total. -/
theorem cycleTotal_congr {s t : State} (hx : t.x = s.x) (hy : t.y = s.y) (hmem : t.mem = s.mem) (i : Instr) :
    cycleTotal t i = cycleTotal s i := by
  cases i <;> simp only [cycleTotal, wordAt, State.memRead, hx, hy, hmem]

/-- Settles O23: the byte loaded, the address stored to and the cycle total are the same in both states. -/
theorem flagsAreNeverRead : Obligations.FlagsAreNeverRead := by
  intro i s f
  have hcycles : cycleTotal { s with flags := f } i = cycleTotal s i := cycleTotal_congr rfl rfl rfl i
  obtain ⟨r, v, hload⟩ | ⟨r, ea, hstore⟩ | ⟨target, rfl⟩ := load_or_store_or_jsr i s
  · have hload' : loadOf { s with flags := f } i = some (r, v) := (loadOf_congr rfl rfl rfl i).trans hload
    refine ⟨_, _, exec_load_eq hload, exec_load_eq hload', ?_, fun _ => ⟨rfl, rfl⟩⟩
    rw [hcycles]; rfl
  · have hreg : State.reg { s with flags := f } r = s.reg r := by cases r <;> rfl
    refine ⟨_, _, exec_store_eq s hstore, exec_store_eq _ hstore, ?_, fun h => ?_⟩
    · rw [hcycles, hreg]; rfl
    · rw [isLoad_eq_false_of_isStore (isStore_of_storeOf hstore)] at h; cases h
  · exact ⟨_, _, exec_jsr_eq target s, exec_jsr_eq target _, rfl, fun h => by cases h⟩

/-- Settles O24: as O23; the counter is only subtracted from. -/
theorem budgetIsNeverRead : Obligations.BudgetIsNeverRead := by
  intro i s budget
  have hcycles : cycleTotal { s with remaining := budget } i = cycleTotal s i := cycleTotal_congr rfl rfl rfl i
  have hshift (k : Int) : budget - k = s.remaining - k - s.remaining + budget := by omega
  obtain ⟨r, v, hload⟩ | ⟨r, ea, hstore⟩ | ⟨target, rfl⟩ := load_or_store_or_jsr i s
  · have hload' : loadOf { s with remaining := budget } i = some (r, v) := (loadOf_congr rfl rfl rfl i).trans hload
    refine ⟨_, exec_load_eq hload, ?_⟩
    rw [exec_load_eq hload', hcycles]
    simp only [afterLoad, ← hshift]
  · have hreg : State.reg { s with remaining := budget } r = s.reg r := by cases r <;> rfl
    refine ⟨_, exec_store_eq s hstore, ?_⟩
    rw [exec_store_eq _ hstore, hcycles, hreg]
    simp only [afterStore, ← hshift]
  · refine ⟨_, exec_jsr_eq target s, ?_⟩
    rw [exec_jsr_eq]
    simp only [afterJsr, ← hshift]
    rfl

/-! ### Cycles -/

/-- Two rules differ by at most a cycle (R90). -/
theorem cyclesUnder_le_add_one (rule rule' : PageCrossRule) (s : State) (i : Instr) :
    cyclesUnder rule s i ≤ cyclesUnder rule' s i + 1 := by
  have hcost (base : Word) (index : Byte) : crossingCost rule base index ≤ crossingCost rule' base index + 1 := by
    have := crossingCost_bounds rule base index
    have := crossingCost_bounds rule' base index
    omega
  cases i with
  | ldaAbsX base | ldyAbsX base => have := hcost base s.x; simp only [cyclesUnder]; omega
  | ldaAbsY base | ldxAbsY base => have := hcost base s.y; simp only [cyclesUnder]; omega
  | ldaIndY zp => have := hcost (address (wordAt s (address zp.toNat))) s.y; simp only [cyclesUnder]; omega
  | ldaImm | ldaZp | ldaZpX | ldaAbs | ldaIndX | ldxImm | ldxZp | ldxZpY | ldxAbs | ldyImm | ldyZp | ldyZpX | ldyAbs
  | staZp | staAbs | stxZp | stxAbs | styZp | styAbs | jsr => exact Int.le_add_one (Int.le_refl _)

/-- Settles O26: under either rule the instruction answers the same state but for its cycles. -/
theorem pageCrossRuleChangesOnlyCycles : Obligations.PageCrossRuleChangesOnlyCycles := by
  intro cfg i s
  have hle := cyclesUnder_le_add_one cfg.pageCrossRule Config.default.pageCrossRule s i
  have hge := cyclesUnder_le_add_one Config.default.pageCrossRule cfg.pageCrossRule s i
  rw [exec_eq_execUnder]
  obtain ⟨r, v, hload⟩ | ⟨r, ea, hstore⟩ | ⟨target, rfl⟩ := load_or_store_or_jsr i s
  · refine ⟨_, _, execUnder_load cfg hload, execUnder_load Config.default hload, rfl, ?_⟩
    simp only [afterLoad]; omega
  · refine ⟨_, _, execUnder_store cfg s hstore, execUnder_store Config.default s hstore, rfl, ?_⟩
    simp only [afterStore]; omega
  · refine ⟨_, _, execUnder_jsr cfg target s, execUnder_jsr Config.default target s, rfl, ?_⟩
    omega

/-- The totals of the table lie between 2 and 6 (R194). -/
theorem cycleTotal_bounds (s : State) (i : Instr) : 2 ≤ cycleTotal s i ∧ cycleTotal s i ≤ 6 := by
  have hcrossing (base : Nat) (index : Byte) : 0 ≤ crossing base index ∧ crossing base index ≤ 1 := by
    unfold crossing
    split <;> decide
  cases i with
  | ldaAbsX base | ldyAbsX base => have := hcrossing base.toNat s.x; simp only [cycleTotal]; omega
  | ldaAbsY base | ldxAbsY base => have := hcrossing base.toNat s.y; simp only [cycleTotal]; omega
  | ldaIndY zp => have := hcrossing (wordAt s (zext16 zp)) s.y; simp only [cycleTotal]; omega
  | ldaImm | ldaZp | ldaZpX | ldaAbs | ldaIndX | ldxImm | ldxZp | ldxZpY | ldxAbs | ldyImm | ldyZp | ldyZpX | ldyAbs
  | staZp | staAbs | stxZp | stxAbs | styZp | styAbs | jsr => simp only [cycleTotal]; omega

/-- Every instruction completes, charges its total and keeps the latch (40_dispatch_loop.md R77, 60_exceptions.md R165). -/
theorem exec_charges_and_keeps_latch (i : Instr) (s : State) :
    ∃ t, exec i s = .next t ∧ t.remaining = s.remaining - cycleTotal s i ∧ t.fault = s.fault := by
  obtain ⟨t, hexec, ⟨r, v, -, rfl⟩ | ⟨r, ea, -, rfl⟩ | ⟨target, rfl, rfl⟩⟩ := exec_cases i s
  · exact ⟨_, hexec, rfl, rfl⟩
  · exact ⟨_, hexec, rfl, rfl⟩
  · exact ⟨_, hexec, rfl, rfl⟩

/-- Every instruction keeps memory in its canonical form (10_state.md R24). -/
theorem exec_keeps_wf {i : Instr} {s t : State} (hexec : exec i s = .next t) (hwf : Memory.wf s.mem = true) :
    Memory.wf t.mem = true := by
  obtain ⟨t', hexec', hcases⟩ := exec_cases i s
  obtain rfl : t' = t := Host.Outcome.next.inj (hexec'.symm.trans hexec)
  obtain ⟨r, v, -, rfl⟩ | ⟨r, ea, -, rfl⟩ | ⟨target, -, rfl⟩ := hcases
  · exact hwf
  · exact State.wf_memWrite ea _ hwf
  · exact State.wf_memWriteWord s.sp _ hwf

end Sys2Proof.Proofs.Instructions

namespace Sys2Proof.Proofs.FetchCoherence

open Sys2Proof.Machine Sys2Proof.Claims Sys2Proof.Proofs.Instructions

/-- A read sees memory alone. -/
theorem memRead_congr {s t : State} (hmem : s.mem = t.mem) (c : Word) : s.memRead c = t.memRead c := by
  rw [State.memRead, State.memRead, hmem]

/-- Settles O29: a fetch reads the cell, and the cells after a store or JSR are those of O18 and O16. -/
theorem storesAreSeenByFetch : Obligations.StoresAreSeenByFetch := by
  constructor
  · intro i s r ea hstore
    obtain ⟨t, hexec, hcell, -⟩ := storesWriteOneCell i s r ea hstore
    refine ⟨t, hexec, fun u hmem hpc => ?_⟩
    rw [fetchByte, hpc, memRead_congr hmem, hcell]
  · intro target s
    obtain ⟨t, hexec, -, hlow, hhigh, -⟩ := Jsr.jsrWritesReturnAndJumps s target
    refine ⟨t, hexec, fun u hmem hpc => ?_⟩
    simp only [fetchByte, State.fetched_memRead, State.fetched_pc, hpc, memRead_congr hmem]
    exact ⟨hlow, hhigh⟩

/-- Settles O2: the word read is `memReadWord_toNat`, the cells after the write are `State.memRead_memWriteWord`. -/
theorem wordsAreLittleEndian : Obligations.WordsAreLittleEndian := by
  intro s addr v
  refine ⟨DispatchLoop.memReadWord_toNat s addr, ?_, ?_, fun c => HostMemory.memRead_memWriteWord_of_ne s v,
    HostMemory.memReadWord_memWriteWord_same s addr v, rfl⟩
  · rw [State.memRead_memWriteWord, if_neg (add_one_ne addr).symm, if_pos rfl, lowByte_toNat]
  · rw [State.memRead_memWriteWord, if_pos rfl, highByte_toNat]

/-- Settles O4: the word fetched is the word at `PC`, and two fetches advance by 2 (`fetched_fetched`). -/
theorem fetchWordReadsLowByteFirst : Obligations.FetchWordReadsLowByteFirst := by
  intro s
  have hword : (fetchWord s).1.toNat = wordAt s s.pc := DispatchLoop.memReadWord_toNat s s.pc
  refine ⟨hword, AddressingModes.fetched_fetched s, fun hpc => ?_⟩
  rw [hword, hpc]; rfl

end Sys2Proof.Proofs.FetchCoherence

namespace Sys2Proof.Proofs.Step

open Sys2Proof.Machine Sys2Proof.Claims Sys2Proof.Proofs.Encoding Sys2Proof.Proofs.Instructions

/-! ### The instruction at `PC` (30_encoding.md R51, R56, R60) -/

/-- Memory never ends: an opcode in it always has its operand bytes (R60). -/
theorem exists_instrAtUnder_eq_ok {cfg : Config} {s : State} {f : Form}
    (hop : decodeOpcodeUnder cfg (s.memRead s.pc) = some f) : ∃ i, instrAtUnder cfg s = .ok i := by
  obtain ⟨p, hp⟩ := exists_decodeForm_eq_ok f (s.memRead (s.pc + 1)) (s.memRead (s.pc + 2)) []
  exact ⟨p.1, by rw [instrAtUnder, instrBytes, decodeUnder_cons_of_some hop, hp]⟩

theorem instrAtUnder_eq_error {cfg : Config} {s : State} (hop : decodeOpcodeUnder cfg (s.memRead s.pc) = none) :
    instrAtUnder cfg s = .error (.unimplementedOpcode (s.memRead s.pc)) := by
  rw [instrAtUnder, instrBytes, decodeUnder_cons_of_none hop]

/-- There is no instruction at `PC` only for want of an opcode. -/
theorem decodeOpcodeUnder_eq_none {cfg : Config} {s : State} {e : DecodeError} (hat : instrAtUnder cfg s = .error e) :
    decodeOpcodeUnder cfg (s.memRead s.pc) = none := by
  cases hop : decodeOpcodeUnder cfg (s.memRead s.pc) with
  | none => rfl
  | some f =>
    obtain ⟨i, hi⟩ := exists_instrAtUnder_eq_ok hop
    rw [hi] at hat; cases hat

/-- A running block has two ways to go on: the instruction at `PC`, or a raise for want of one (R77). -/
theorem instrAt_or_unimplemented (s : State) :
    (∃ i, instrAt s = .ok i) ∨ decodeOpcode (s.memRead s.pc) = none := by
  cases hop : decodeOpcode (s.memRead s.pc) with
  | none => exact .inr rfl
  | some f => exact .inl (exists_instrAtUnder_eq_ok hop)

/-! ### One step -/

/-- The state after raising UnimplementedOpcode (60_exceptions.md R160 to R162). -/
def afterRaise (s : State) : State :=
  { s with pc := s.pc + 1, remaining := s.remaining - 1, fault := some { op := s.memRead s.pc, address := s.pc } }

theorem step_of_latched {s : State} {r : FaultRecord} (hfault : s.fault = some r) :
    step s = .fault (.unimplementedOpcode r) := by
  rw [step, turnDefault, turn, hfault]

theorem step_of_idle {s : State} (hfault : s.fault = none) (hidle : s.remaining ≤ 0) : step s = .next s := by
  simp only [step, turnDefault, turn, hfault, if_neg (Int.not_lt.mpr hidle)]

theorem step_of_budget {s : State} (hfault : s.fault = none) (hbudget : 0 < s.remaining) :
    step s = runInstruction Config.default exec s := by
  simp only [step, turnDefault, turn, hfault, if_pos hbudget]

theorem step_of_instrAt {s : State} {i : Instr} (hfault : s.fault = none) (hbudget : 0 < s.remaining)
    (hat : instrAt s = .ok i) : step s = exec i s := by
  rw [step_of_budget hfault hbudget, runInstruction, show instrAtUnder Config.default s = .ok i from hat]

/-- Whether there is an instruction at `PC` does not depend on the budget (R86). -/
theorem step_withBudget_of_instrAt {s : State} {i : Instr} {c : Int} (hfault : s.fault = none) (hbudget : 0 < c)
    (hat : instrAt s = .ok i) : step { s with remaining := c } = exec i { s with remaining := c } :=
  step_of_instrAt (s := { s with remaining := c }) hfault hbudget hat

theorem step_of_unimplemented {s : State} (hfault : s.fault = none) (hbudget : 0 < s.remaining)
    (hop : decodeOpcode (s.memRead s.pc) = none) : step s = .next (afterRaise s) := by
  rw [step_of_budget hfault hbudget, runInstruction, instrAtUnder_eq_error hop]; rfl

theorem step_withBudget_of_unimplemented {s : State} {c : Int} (hfault : s.fault = none) (hbudget : 0 < c)
    (hop : decodeOpcode (s.memRead s.pc) = none) :
    step { s with remaining := c } = .next (afterRaise { s with remaining := c }) :=
  step_of_unimplemented (s := { s with remaining := c }) hfault hbudget hop

/-- Settles O34: the decoder is given the bytes at `PC`. -/
theorem stepRunsTheDecodedInstruction : Obligations.StepRunsTheDecodedInstruction := by
  intro s i rest hfault hbudget hdecode
  have hat : decodeUnder Config.default (instrBytes s) = .ok (i, rest) := hdecode
  exact step_of_instrAt hfault hbudget (by rw [instrAt, instrAtUnder, hat])

/-- Settles O35. -/
theorem unimplementedOpcodeEntry : Obligations.UnimplementedOpcodeEntry :=
  fun _ => step_of_unimplemented

/-- Settles O37. -/
theorem latchedStepReportsTheFault : Obligations.LatchedStepReportsTheFault :=
  fun _ _ => step_of_latched

/-- Settles O38. -/
theorem idleStepKeepsTheState : Obligations.IdleStepKeepsTheState :=
  fun _ => step_of_idle

theorem run_succ_of_next {M : Host.Core} {s t : M.State} (hstep : M.step s = .next t) (k : Nat) :
    M.run (k + 1) s = M.run k t := by
  simp only [Host.Core.run, hstep]

theorem run_succ_of_fault {M : Host.Core} {s : M.State} {r : M.Fault} (hstep : M.step s = .fault r) (k : Nat) :
    M.run (k + 1) s = .fault r := by
  simp only [Host.Core.run, hstep]

/-- Settles O36: the first step latches the record, and the second reports it. -/
theorem unimplementedOpcodeIsNeverSkipped : Obligations.UnimplementedOpcodeIsNeverSkipped := by
  intro s more hfault hbudget hop
  have hraise : core.step s = .next (afterRaise s) := step_of_unimplemented hfault hbudget hop
  have hreport : core.step (afterRaise s) = .fault (.unimplementedOpcode { op := s.memRead s.pc, address := s.pc }) :=
    latchedStepReportsTheFault (afterRaise s) _ rfl
  exact (run_succ_of_next hraise (more + 1)).trans (run_succ_of_fault hreport more)

/-- Settles O25: an instruction charges its total, raising charges one cycle. -/
theorem cycleTotals : Obligations.CycleTotals := by
  constructor
  · intro i s
    obtain ⟨t, hexec, hcharge, -⟩ := exec_charges_and_keeps_latch i s
    exact ⟨t, hexec, by omega, cycleTotal_bounds s i⟩
  · intro s hfault hbudget hop
    exact ⟨_, step_of_unimplemented hfault hbudget hop, Int.sub_sub_self _ _, rfl⟩

/-- Settles O39: a step is a report, idle, an instruction, which keeps the latch, or a raise. -/
theorem nothingElseFaults : Obligations.NothingElseFaults := by
  constructor
  · intro i s
    obtain ⟨t, hexec, -, hfault⟩ := exec_charges_and_keeps_latch i s
    exact ⟨t, hexec, hfault⟩
  · intro s
    have hkept {t : State} (hfault : t.fault = none) : t.faultLatch = true → decodeOpcode (s.memRead s.pc) = none ∧
        0 < s.remaining := by simp [State.faultLatch, hfault]
    cases hfault : s.fault with
    | some r => exact .inl ⟨by rw [State.faultLatch, hfault]; rfl, _, step_of_latched hfault⟩
    | none =>
      refine .inr ⟨by rw [State.faultLatch, hfault]; rfl, ?_⟩
      by_cases hbudget : 0 < s.remaining
      · obtain ⟨i, hat⟩ | hop := instrAt_or_unimplemented s
        · obtain ⟨t, hexec, -, hlatch⟩ := exec_charges_and_keeps_latch i s
          exact ⟨t, (step_of_instrAt hfault hbudget hat).trans hexec, hkept (hlatch.trans hfault)⟩
        · exact ⟨_, step_of_unimplemented hfault hbudget hop, fun _ => ⟨hop, hbudget⟩⟩
      · exact ⟨s, step_of_idle hfault (Int.not_lt.mp hbudget), hkept hfault⟩

/-! ### The invariant -/

/-- The invariant's three clauses. -/
theorem inv_iff (s : State) :
    s.inv = true ↔ Memory.wf s.mem = true ∧ -5 ≤ s.remaining ∧
      ∀ r, s.fault = some r → decodeOpcode r.op = none ∧ r.address + 1 = s.pc := by
  unfold State.inv
  cases s.fault <;> simp [and_assoc]

/-- Settles O40. -/
theorem resetMeetsTheInvariant : Obligations.ResetMeetsTheInvariant := by
  refine (inv_iff State.reset).mpr ⟨rfl, by decide, fun r hr => ?_⟩
  cases hr

/-- Settles O41: an idle step changes nothing; an instruction starts with a cycle left and charges at most 6; a raise records
the byte that did not decode. -/
theorem stepKeepsTheInvariant : Obligations.StepKeepsTheInvariant := by
  intro s t hinv hstep
  obtain ⟨hwf, hlow, -⟩ := (inv_iff s).mp hinv
  obtain ⟨hfault, ⟨-, rfl⟩ | ⟨hbudget, i, -, hexec⟩ | ⟨hbudget, e, hat, rfl⟩⟩ := turn_cases hstep
  · exact hinv
  · obtain ⟨u, hexec', hcharge, hlatch⟩ := exec_charges_and_keeps_latch i s
    obtain rfl : u = t := Host.Outcome.next.inj (hexec'.symm.trans hexec)
    have hcycles := cycleTotal_bounds s i
    refine (inv_iff u).mpr ⟨exec_keeps_wf hexec hwf, by omega, fun r hr => ?_⟩
    rw [hlatch, hfault] at hr; cases hr
  · refine (inv_iff _).mpr ⟨hwf, ?_, ?_⟩
    · rw [raiseUnimplementedOpcode_remaining, State.fetched_remaining]; omega
    · rintro r ⟨rfl⟩
      exact ⟨decodeOpcodeUnder_eq_none hat, rfl⟩

end Sys2Proof.Proofs.Step

namespace Sys2Proof.Proofs.Execute

open Sys2Proof.Machine Sys2Proof.Claims Sys2Proof.Proofs.Instructions Sys2Proof.Proofs.Step

/-! ### The loop (40_dispatch_loop.md R78) -/

theorem goesOn_iff (s : State) : s.goesOn = true ↔ s.fault = none ∧ 0 < s.remaining := by
  simp [State.goesOn]

theorem executeLoop_of_stopped (next : State → Result) (n : Nat) {s : State} (hstop : ¬s.goesOn = true) :
    executeLoop next n s = s := by
  cases n with
  | zero => rfl
  | succ n => rw [executeLoop, if_neg hstop]

theorem executeLoop_succ {next : State → Result} (n : Nat) {s t : State} (hgo : s.goesOn = true)
    (hnext : next s = .next t) : executeLoop next (n + 1) s = executeLoop next n t := by
  rw [executeLoop, if_pos hgo, hnext]

/-- A step of the running loop answers a next state with less budget (R83). -/
theorem step_lowers_remaining {s : State} (hgo : s.goesOn = true) :
    ∃ t, step s = .next t ∧ t.remaining < s.remaining := by
  obtain ⟨hfault, hbudget⟩ := (goesOn_iff s).mp hgo
  obtain ⟨i, hat⟩ | hop := instrAt_or_unimplemented s
  · obtain ⟨t, hexec, hcharge, -⟩ := exec_charges_and_keeps_latch i s
    have hcycles := cycleTotal_bounds s i
    exact ⟨t, (step_of_instrAt hfault hbudget hat).trans hexec, by omega⟩
  · exact ⟨_, step_of_unimplemented hfault hbudget hop, Int.sub_lt_self _ (by decide)⟩

/-- As many turns as there is budget are enough: more make no difference. -/
theorem executeLoop_fuel (n m : Nat) (s : State) (hn : s.remaining.toNat ≤ n) (hm : s.remaining.toNat ≤ m) :
    executeLoop step n s = executeLoop step m s := by
  by_cases hgo : s.goesOn = true
  · obtain ⟨-, hbudget⟩ := (goesOn_iff s).mp hgo
    obtain ⟨t, hstep, hlower⟩ := step_lowers_remaining hgo
    match n, m with
    | 0, _ | _, 0 => omega
    | n + 1, m + 1 =>
      rw [executeLoop_succ n hgo hstep, executeLoop_succ m hgo hstep]
      exact executeLoop_fuel n m t (by omega) (by omega)
  · rw [executeLoop_of_stopped step n hgo, executeLoop_of_stopped step m hgo]

/-! ### `Execute` as its loop (R70, R80, R85) -/

/-- How an `Execute(c)` ends whose loop ends in `t` (R80, R162). -/
def ended (c : Int) (t : State) : ExecuteEnd :=
  match t.fault with
  | some r => .raised r t
  | none => .returned (c - t.remaining) { t with remaining := 0 }

theorem ended_of_fault {t : State} {r : FaultRecord} (c : Int) (hfault : t.fault = some r) : ended c t = .raised r t := by
  rw [ended, hfault]

theorem ended_of_no_fault {t : State} (c : Int) (hfault : t.fault = none) :
    ended c t = .returned (c - t.remaining) { t with remaining := 0 } := by
  rw [ended, hfault]

theorem execute_of_latched {s : State} {r : FaultRecord} (c : Int) (hfault : s.fault = some r) :
    execute c s = .raised r s := by
  rw [execute, executeOver, hfault]

theorem execute_eq_ended {s : State} (c : Int) (hfault : s.fault = none) :
    execute c s = ended c (executeLoop step c.toNat { s with remaining := c }) := by
  rw [execute, executeOver, hfault]; rfl

/-- Settles O44. -/
theorem executeWhileLatched : Obligations.ExecuteWhileLatched :=
  fun c _ _ => execute_of_latched c

/-- Settles O43: the loop stops at once. -/
theorem executeWithoutBudget : Obligations.ExecuteWithoutBudget := by
  intro c s hbudget hfault
  have hstop : ¬State.goesOn { s with remaining := c } = true := fun hgo =>
    Int.not_lt.mpr hbudget ((goesOn_iff _).mp hgo).2
  rw [execute_eq_ended c hfault, executeLoop_of_stopped step _ hstop]
  rw [ended_of_no_fault (t := { s with remaining := c }) c hfault, Int.sub_self]

/-- The first turn of an `Execute` with budget: the rest is a loop with enough turns for the budget that remains. -/
theorem execute_of_step {c : Int} {s t : State} (hbudget : 0 < c) (hfault : s.fault = none)
    (hstep : step { s with remaining := c } = .next t) :
    execute c s = ended c (executeLoop step t.remaining.toNat t) := by
  have hgo : State.goesOn { s with remaining := c } = true := (goesOn_iff _).mpr ⟨hfault, hbudget⟩
  obtain ⟨t', hstep', hlower⟩ := step_lowers_remaining hgo
  obtain rfl : t' = t := Host.Outcome.next.inj (hstep'.symm.trans hstep)
  have hlower : t'.remaining < c := hlower
  obtain ⟨n, hn⟩ : ∃ n, c.toNat = n + 1 := ⟨c.toNat - 1, by omega⟩
  rw [execute_eq_ended c hfault, hn, executeLoop_succ n hgo hstep]
  rw [executeLoop_fuel n t'.remaining.toNat t' (by omega) (Nat.le_refl _)]

/-- Settles O45: the one turn raises, and the loop stops at the latch. -/
theorem executeRaisesOnUnimplementedOpcode : Obligations.ExecuteRaisesOnUnimplementedOpcode := by
  intro c s hbudget hfault hop
  have hstop : ¬(afterRaise { s with remaining := c }).goesOn = true := fun hgo => by
    cases ((goesOn_iff _).mp hgo).1
  rw [execute_of_step hbudget hfault (step_withBudget_of_unimplemented hfault hbudget hop),
    executeLoop_of_stopped step _ hstop]
  exact ended_of_fault c rfl

/-! ### The next instruction (R83) -/

/-- The next instruction is the one at `PC`, and its cost the cycles it charges. -/
theorem nextInstruction_of_exec {s t : State} {i : Instr} (hfault : s.fault = none) (hat : instrAt s = .ok i)
    (hexec : exec i { s with remaining := 1 } = .next t) :
    nextInstruction s = some { t with remaining := 0 } ∧ cost s = 1 - t.remaining := by
  have hstep : step { s with remaining := 1 } = .next t :=
    (step_withBudget_of_instrAt hfault Int.zero_lt_one hat).trans hexec
  have hlatch : t.fault = none := by
    obtain ⟨u, hu, -, hlatch⟩ := exec_charges_and_keeps_latch i { s with remaining := 1 }
    obtain rfl : u = t := Host.Outcome.next.inj (hu.symm.trans hexec)
    exact hlatch.trans hfault
  rw [nextInstruction, cost, hstep]
  simp [hlatch]

theorem exists_nextInstruction {s : State} {i : Instr} (hfault : s.fault = none) (hat : instrAt s = .ok i) :
    ∃ t, nextInstruction s = some t := by
  obtain ⟨t, hexec, -⟩ := exec_charges_and_keeps_latch i { s with remaining := 1 }
  exact ⟨_, (nextInstruction_of_exec hfault hat hexec).1⟩

/-- Only an instruction at `PC`, with no fault latched, has a state after it. -/
theorem instrAt_of_nextInstruction {s t : State} (hnext : nextInstruction s = some t) :
    s.fault = none ∧ ∃ i, instrAt s = .ok i := by
  cases hfault : s.fault with
  | some r =>
    rw [nextInstruction, step_of_latched (s := { s with remaining := 1 }) hfault] at hnext
    cases hnext
  | none =>
    refine ⟨rfl, (instrAt_or_unimplemented s).resolve_right fun hop => ?_⟩
    rw [nextInstruction, step_withBudget_of_unimplemented hfault Int.zero_lt_one hop] at hnext
    cases hnext

/-- With any budget the next step is the next instruction, at its cost (R86: the budget is never read). -/
theorem step_of_nextInstruction {s t : State} (hnext : nextInstruction s = some t) :
    t.fault = none ∧ 2 ≤ cost s ∧ cost s ≤ 6 ∧
      ∀ c, 0 < c → step { s with remaining := c } = .next { t with remaining := c - cost s } := by
  obtain ⟨hfault, i, hat⟩ := instrAt_of_nextInstruction hnext
  obtain ⟨u, hexec, hcharge, hlatch⟩ := exec_charges_and_keeps_latch i { s with remaining := 1 }
  obtain ⟨hnext', hcost⟩ := nextInstruction_of_exec hfault hat hexec
  obtain rfl : { u with remaining := 0 } = t := Option.some.inj (hnext'.symm.trans hnext)
  have hcycles := cycleTotal_bounds { s with remaining := 1 } i
  have hcharge : u.remaining = 1 - cycleTotal { s with remaining := 1 } i := hcharge
  refine ⟨hlatch.trans hfault, by omega, by omega, fun c hbudget => ?_⟩
  obtain ⟨u', hexec', hshifted⟩ := budgetIsNeverRead i { s with remaining := 1 } c
  obtain rfl : u' = u := Host.Outcome.next.inj (hexec'.symm.trans hexec)
  have hleft : u'.remaining - 1 + c = c - cost s := by omega
  rw [step_withBudget_of_instrAt hfault hbudget hat, hshifted]
  exact congrArg (fun k => Host.Outcome.next { u' with remaining := k }) hleft

/-! ### The laws of `Execute` (R80 to R83) -/

/-- Settles O46: after the first instruction, `Execute(c)` is the loop of `Execute(c - cost)`. -/
theorem executeRecursion : Obligations.ExecuteRecursion := by
  intro c s t hbudget hnext
  obtain ⟨hfault, -⟩ := instrAt_of_nextInstruction hnext
  obtain ⟨hlatch, -, -, hstep⟩ := step_of_nextInstruction hnext
  rw [execute_of_step hbudget hfault (hstep c hbudget), execute_eq_ended (c - cost s) hlatch]
  cases hend : (executeLoop step (c - cost s).toNat { t with remaining := c - cost s }).fault with
  | some r => rw [ended_of_fault c hend, ended_of_fault (c - cost s) hend]
  | none =>
    rw [ended_of_no_fault c hend, ended_of_no_fault (c - cost s) hend]
    simp only [ExecuteEnd.returned.injEq, and_true]
    omega

/-- Settles O47: one instruction costs at least two cycles, so nothing is left for another. -/
theorem executeOneRunsOneInstruction : Obligations.ExecuteOneRunsOneInstruction := by
  intro s i hfault hat
  obtain ⟨t, hexec, -⟩ := exec_charges_and_keeps_latch i { s with remaining := 1 }
  obtain ⟨hnext, hcost⟩ := nextInstruction_of_exec hfault hat hexec
  obtain ⟨hlatch, hlow, -⟩ := step_of_nextInstruction hnext
  refine ⟨t, hexec, ?_⟩
  rw [executeRecursion 1 s _ (by decide) hnext, executeWithoutBudget _ _ (by omega) hlatch, hcost]
  simp

/-- A derivation of the result of an `Execute` by R81 and R83 (c): no budget, or one instruction and the rest. -/
inductive Returns : Int → State → Int → State → Prop where
  | stop {c : Int} {s : State} (hbudget : c ≤ 0) (hfault : s.fault = none) : Returns c s 0 { s with remaining := 0 }
  | more {c used : Int} {s t u : State} (hbudget : 0 < c) (hnext : nextInstruction s = some t)
      (hrest : Returns (c - cost s) t used u) : Returns c s (cost s + used) u

/-- Every `Execute` that returns has one: each instruction leaves less budget, and without an instruction it raises. -/
theorem returns_of_execute (c : Int) (s : State) {used : Int} {u : State} (hreturned : execute c s = .returned used u) :
    Returns c s used u := by
  cases hfault : s.fault with
  | some r => rw [execute_of_latched c hfault] at hreturned; cases hreturned
  | none =>
    by_cases hbudget : 0 < c
    · obtain ⟨i, hat⟩ | hop := instrAt_or_unimplemented s
      · obtain ⟨t, hnext⟩ := exists_nextInstruction hfault hat
        obtain ⟨-, hcost, -⟩ := step_of_nextInstruction hnext
        rw [executeRecursion c s t hbudget hnext] at hreturned
        cases hrest : execute (c - cost s) t with
        | raised r v => rw [hrest] at hreturned; cases hreturned
        | returned used' v =>
          rw [hrest] at hreturned
          cases hreturned
          exact .more hbudget hnext (returns_of_execute (c - cost s) t hrest)
      · rw [executeRaisesOnUnimplementedOpcode c s hbudget hfault hop] at hreturned; cases hreturned
    · rw [executeWithoutBudget c s (Int.not_lt.mp hbudget) hfault] at hreturned
      cases hreturned
      exact .stop (Int.not_lt.mp hbudget) hfault
termination_by c.toNat
decreasing_by omega

/-- The result for every budget: 0 without one, and otherwise the budget or up to five more, as the last instruction starts with
at least one cycle left and costs at most six (R80, R81). -/
theorem Returns.bounds {c used : Int} {s u : State} (hreturns : Returns c s used u) :
    (c ≤ 0 → used = 0) ∧ (1 ≤ c → c ≤ used ∧ used ≤ c + 5) := by
  induction hreturns with
  | stop hbudget hfault => omega
  | more hbudget hnext hrest ih =>
    obtain ⟨-, hlow, hhigh, -⟩ := step_of_nextInstruction hnext
    omega

/-- Settles O42. -/
theorem executeResultBounds : Obligations.ExecuteResultBounds :=
  fun c _ s _ hbudget hreturned => (returns_of_execute c s hreturned).bounds.2 hbudget

theorem afterInstructions_succ {s t : State} (hnext : nextInstruction s = some t) (n : Nat) :
    afterInstructions (n + 1) s = afterInstructions n t := by
  rw [afterInstructions, hnext]; rfl

/-- The sequence of instructions does not depend on the dead counter. -/
theorem afterInstructions_remaining (n : Nat) (s : State) (k : Int) :
    afterInstructions n { s with remaining := k } = afterInstructions n s := by
  cases n <;> rfl

/-- A returned state is in the sequence of instructions, each of which costs at least two cycles (R82, R83 (b)). -/
theorem Returns.after {c used : Int} {s u : State} (hreturns : Returns c s used u) :
    ∃ n : Nat, afterInstructions n s = some u ∧ (2 * n : Int) ≤ max c 0 + 1 := by
  induction hreturns with
  | stop hbudget hfault => exact ⟨0, rfl, by omega⟩
  | more hbudget hnext hrest ih =>
    obtain ⟨n, hafter, hhalf⟩ := ih
    obtain ⟨-, hlow, -⟩ := step_of_nextInstruction hnext
    exact ⟨n + 1, (afterInstructions_succ hnext n).trans hafter, by omega⟩

/-- Settles O48. -/
theorem executeIsAPrefixOfTheProgram : Obligations.ExecuteIsAPrefixOfTheProgram :=
  fun c _ s _ hreturned => (returns_of_execute c s hreturned).after

/-- Settles O49: by induction on the larger budget; a smaller one that runs nothing stops at the start of the sequence, and any
other runs the same first instruction. -/
theorem smallerBudgetStopsEarlier : Obligations.SmallerBudgetStopsEarlier := by
  intro c d used s u hle hreturned
  have hreturns := returns_of_execute c s hreturned
  clear hreturned
  induction hreturns generalizing d with
  | stop hbudget hfault =>
    exact ⟨0, _, 0, 0, executeWithoutBudget d _ (Int.le_trans hle hbudget) hfault, Int.le_refl 0, rfl, rfl⟩
  | @more c used s t u hbudget hnext hrest ih =>
    obtain ⟨hfault, -⟩ := instrAt_of_nextInstruction hnext
    obtain ⟨-, hlow, -⟩ := step_of_nextInstruction hnext
    by_cases hd : d ≤ 0
    · obtain ⟨k, hk, -⟩ := hrest.after
      have hused := hrest.bounds
      refine ⟨0, _, 0, k + 1, executeWithoutBudget d s hd hfault, by omega, rfl, ?_⟩
      rw [afterInstructions_remaining, afterInstructions_succ hnext, hk]
    · obtain ⟨used', v, n, k, hexecute, hused, hn, hk⟩ := ih (d - cost s) (by omega)
      refine ⟨cost s + used', v, n + 1, k, ?_, by omega, (afterInstructions_succ hnext n).trans hn, hk⟩
      rw [executeRecursion d s t (by omega) hnext, hexecute]

end Sys2Proof.Proofs.Execute

namespace Sys2Proof.Proofs.HostPort

open Sys2Proof.Machine

/-- Settles O50: the fields of `State.resetUnder`, and all seven flags cleared. -/
theorem resetLeaves : Obligations.ResetLeaves := by
  refine ⟨fun cfg addr => ⟨rfl, rfl, rfl, rfl, rfl, ?_, rfl, rfl⟩, rfl, rfl, rfl, rfl⟩
  intro f
  cases f <;> rfl

/-- Settles O51: `Reset()` looks at nothing, in either kind of block. -/
theorem resetAlwaysGivesTheSameState : Obligations.ResetAlwaysGivesTheSameState := by
  intro cfg b
  cases b <;> rfl

/-- Every register after a register write (10_state.md R22). -/
theorem reg_setReg (s : State) (r r' : Reg) (v : Byte) : (s.setReg r v).reg r' = if r' = r then v else s.reg r' := by
  cases r <;> cases r' <;> rfl

/-- A register write touches `A`, `X` and `Y` alone (10_state.md R22). -/
theorem setReg_frame (s : State) (r : Reg) (v : Byte) :
    s.setReg r v = { s with a := (s.setReg r v).a, x := (s.setReg r v).x, y := (s.setReg r v).y } := by
  cases r <;> rfl

/-- Every flag after a flag write (10_state.md R22). -/
theorem get_set (fl : Flags) (f g : FlagName) (bit : Bool) : (fl.set f bit).get g = if g = f then bit else fl.get g := by
  cases f <;> cases g <;> rfl

/-- Settles O53: each operation is the read or write of its name, and the writes obey the rules above. -/
theorem hostRegisterAccess : Obligations.HostRegisterAccess := by
  intro cfg s w v r f bit
  refine ⟨rfl, rfl, rfl, rfl, rfl, ⟨s.setReg r v, rfl, setReg_frame s r v, ?_, fun r' hne => ?_⟩, rfl,
    ⟨{ s with flags := s.flags.set f bit }, rfl, rfl, ?_, fun g hne => ?_⟩⟩
  · rw [reg_setReg, if_pos rfl]
  · rw [reg_setReg, if_neg hne]
  · rw [get_set, if_pos rfl]
  · rw [get_set, if_neg hne]

/-- `Execute` of the default configuration is `execute` (00_scope.md R4). -/
theorem executeUnder_default (c : Int) (s : State) : executeUnder Config.default c s = execute c s := by
  have hexec : execUnder Config.default = exec := funext fun i => funext fun s => (exec_eq_execUnder i s).symm
  have hturn : turnUnder Config.default = turnDefault := funext fun s => by rw [turnUnder, hexec, turnDefault]
  rw [executeUnder, hturn, execute]

/-- Settles O54: both endings of `Execute` become the answer and the state of the block. -/
theorem hostExecute : Obligations.HostExecute := by
  intro c s
  constructor
  · intro used t hreturned
    simp only [hostOp, hostOpReady, executeUnder_default, hreturned]
  · intro r t hraised
    simp only [hostOp, hostOpReady, executeUnder_default, hraised]

/-- Settles O55: before the first `Reset()` each of these is refused by `hostOpBeforeReset`. -/
theorem nothingHasAValueBeforeReset : Obligations.NothingHasAValueBeforeReset :=
  fun _ _ _ _ _ => ⟨rfl, rfl, rfl, rfl, rfl, rfl, rfl⟩

end Sys2Proof.Proofs.HostPort
